-- ==== Sys2Proof/Word.lean ====
section
/-! DEFINITION. The word types of the hardware: widths and nothing else (00_scope R14, R6). -/

namespace Sys2Proof

/-- `u8`: a general register, a timer, a byte of memory. -/
abbrev Byte := BitVec 8

/-- `u16`: the program counter, the index register, a return address, an instruction word. -/
abbrev Word := BitVec 16

/-- `u4`: a register index, a sprite height, a key number. -/
abbrev Nibble := BitVec 4

/-- `u12`: the address operand `nnn`. -/
abbrev Addr12 := BitVec 12

end Sys2Proof
end

