-- ==== Sys2Proof/Syntax.lean ====
section
/-! DEFINITION. The closed list of instruction forms (30_encoding R74): one constructor per row of
spec/opcode_table.json, in the table's order, with the operands of R74's column. -/

namespace Sys2Proof

inductive Instr where
  /-- `00E0` -/
  | clearScreen
  /-- `00EE` -/
  | returnFromProcedure
  /-- `1nnn` -/
  | jump (nnn : Addr12)
  /-- `2nnn` -/
  | jumpAndLink (nnn : Addr12)
  /-- `3xkk` -/
  | skipIfEqualImm (x : Nibble) (kk : Byte)
  /-- `4xkk` -/
  | skipIfNotEqualImm (x : Nibble) (kk : Byte)
  /-- `5xy_`, low nibble not examined (R78) -/
  | skipIfEqualReg (x y : Nibble)
  /-- `6xkk` -/
  | setRegister (x : Nibble) (kk : Byte)
  /-- `7xkk` -/
  | addValueToRegister (x : Nibble) (kk : Byte)
  /-- `8xy0` -/
  | set (x y : Nibble)
  /-- `8xy1` -/
  | or (x y : Nibble)
  /-- `8xy2` -/
  | and (x y : Nibble)
  /-- `8xy3` -/
  | xor (x y : Nibble)
  /-- `8xy4` -/
  | add (x y : Nibble)
  /-- `8xy5` -/
  | sub (x y : Nibble)
  /-- `8xy6` -/
  | rShift (x y : Nibble)
  /-- `8xy7` -/
  | rSub (x y : Nibble)
  /-- `8xyE` -/
  | lShift (x y : Nibble)
  /-- `9xy_`, low nibble not examined (R78) -/
  | skipIfNotEqualReg (x y : Nibble)
  /-- `Annn` -/
  | setIndex (nnn : Addr12)
  /-- `Bnnn`; `x` overlaps the top nibble of `nnn` (R79) -/
  | jumpWithOffset (x : Nibble) (nnn : Addr12)
  /-- `Cxkk` -/
  | randomAnd (x : Nibble) (kk : Byte)
  /-- `Dxyn` -/
  | draw (x y n : Nibble)
  /-- `Ex9E` -/
  | skipIfKeyPressed (x : Nibble)
  /-- `ExA1` -/
  | skipIfKeyNotPressed (x : Nibble)
  /-- `Fx07` -/
  | getDelayTimer (x : Nibble)
  /-- `Fx0A` -/
  | getKey (x : Nibble)
  /-- `Fx15` -/
  | setDelayTimer (x : Nibble)
  /-- `Fx18` -/
  | setSoundTimer (x : Nibble)
  /-- `Fx1E` -/
  | addToIndex (x : Nibble)
  /-- `Fx29` -/
  | setIndexToFontCharacter (x : Nibble)
  /-- `Fx33` -/
  | doBCDConversion (x : Nibble)
  /-- `Fx55` -/
  | storeRegistersToMemory (x : Nibble)
  /-- `Fx65` -/
  | loadRegistersFromMemory (x : Nibble)
  /-- every other word (R76); the operand is the word itself -/
  | unsupported (w : Word)
  deriving DecidableEq, Repr

end Sys2Proof
end

