-- ==== Sys2Proof/WellFormed.lean ====
section
/-! DEFINITION. Which terms of `Instr` are instructions of the hardware: the two places where an
operand is not free. -/

namespace Sys2Proof

/-- The words that decode to `Unsupported`, group by group as 30_encoding R76 lists them. -/
def isUnsupportedWord (w : Word) : Bool :=
  let op := w.extractLsb' 12 4
  let n := w.extractLsb' 0 4
  let kk := w.extractLsb' 0 8
  (op == 0x0#4 && !(w == 0x00E0#16 || w == 0x00EE#16))
    || (op == 0x8#4 && [0x8#4, 0x9#4, 0xA#4, 0xB#4, 0xC#4, 0xD#4, 0xF#4].contains n)
    || (op == 0xE#4 && !([0x9E#8, 0xA1#8].contains kk))
    || (op == 0xF#4 &&
        !([0x07#8, 0x0A#8, 0x15#8, 0x18#8, 0x1E#8, 0x29#8, 0x33#8, 0x55#8, 0x65#8].contains kk))

/-- Every operand of every form is free but for two: JumpWithOffset's `x` is the top nibble of its
`nnn` (30_encoding R79), and Unsupported carries one of the words of R76. -/
def Instr.wellFormed : Instr → Bool
  | .jumpWithOffset x nnn => x == nnn.extractLsb' 8 4
  | .unsupported w => isUnsupportedWord w
  | .clearScreen | .returnFromProcedure | .jump _ | .jumpAndLink _ | .skipIfEqualImm _ _
  | .skipIfNotEqualImm _ _ | .skipIfEqualReg _ _ | .setRegister _ _ | .addValueToRegister _ _
  | .set _ _ | .or _ _ | .and _ _ | .xor _ _ | .add _ _ | .sub _ _ | .rShift _ _ | .rSub _ _
  | .lShift _ _ | .skipIfNotEqualReg _ _ | .setIndex _ | .randomAnd _ _ | .draw _ _ _
  | .skipIfKeyPressed _ | .skipIfKeyNotPressed _ | .getDelayTimer _ | .getKey _
  | .setDelayTimer _ | .setSoundTimer _ | .addToIndex _ | .setIndexToFontCharacter _
  | .doBCDConversion _ | .storeRegistersToMemory _ | .loadRegistersFromMemory _ => true

end Sys2Proof
end

