-- ==== Sys2Proof/Decode.lean ====
section
/-! DEFINITION. The decoder (30_encoding R75), total on words, and the encoder, written from the
opcode map R74; the map itself as a table of match and mask. The numerals are PRESUMED by the spec
itself (R77, G1; log entry 9). -/

namespace Sys2Proof

/-! ### Fields of an instruction word (00_scope R18) -/

def fieldOp (w : Word) : Nibble := w.extractLsb' 12 4
def fieldX (w : Word) : Nibble := w.extractLsb' 8 4
def fieldY (w : Word) : Nibble := w.extractLsb' 4 4
def fieldN (w : Word) : Nibble := w.extractLsb' 0 4
def fieldKK (w : Word) : Byte := w.extractLsb' 0 8
def fieldNNN (w : Word) : Addr12 := w.extractLsb' 0 12

/-- The word fetched from two bytes: big-endian, the byte at the lower address is bits 15 to 8
(20_memory R51). -/
def wordOfBytes (hi lo : Byte) : Word := hi ++ lo

/-- The byte of a word that lies at the lower address (20_memory R51). -/
def highByte (w : Word) : Byte := w.extractLsb' 8 8

/-- The byte of a word that lies at the higher address (20_memory R51). -/
def lowByte (w : Word) : Byte := w.extractLsb' 0 8

/-! ### The decoder -/

/-- The `0x8` group, selected by the low nibble (30_encoding R75). -/
def decodeAlu (w : Word) : Instr :=
  match fieldN w with
  | 0x0#4 => .set (fieldX w) (fieldY w)
  | 0x1#4 => .or (fieldX w) (fieldY w)
  | 0x2#4 => .and (fieldX w) (fieldY w)
  | 0x3#4 => .xor (fieldX w) (fieldY w)
  | 0x4#4 => .add (fieldX w) (fieldY w)
  | 0x5#4 => .sub (fieldX w) (fieldY w)
  | 0x6#4 => .rShift (fieldX w) (fieldY w)
  | 0x7#4 => .rSub (fieldX w) (fieldY w)
  | 0xE#4 => .lShift (fieldX w) (fieldY w)
  | _ => .unsupported w

/-- The `0xE` group, selected by the low byte (30_encoding R75). -/
def decodeKey (w : Word) : Instr :=
  match fieldKK w with
  | 0x9E#8 => .skipIfKeyPressed (fieldX w)
  | 0xA1#8 => .skipIfKeyNotPressed (fieldX w)
  | _ => .unsupported w

/-- The `0xF` group, selected by the low byte (30_encoding R75). -/
def decodeMisc (w : Word) : Instr :=
  match fieldKK w with
  | 0x07#8 => .getDelayTimer (fieldX w)
  | 0x0A#8 => .getKey (fieldX w)
  | 0x15#8 => .setDelayTimer (fieldX w)
  | 0x18#8 => .setSoundTimer (fieldX w)
  | 0x1E#8 => .addToIndex (fieldX w)
  | 0x29#8 => .setIndexToFontCharacter (fieldX w)
  | 0x33#8 => .doBCDConversion (fieldX w)
  | 0x55#8 => .storeRegistersToMemory (fieldX w)
  | 0x65#8 => .loadRegistersFromMemory (fieldX w)
  | _ => .unsupported w

/-- The `0x0` group, matched on the whole word (30_encoding R75). -/
def decodeWhole (w : Word) : Instr :=
  match w with
  | 0x00E0#16 => .clearScreen
  | 0x00EE#16 => .returnFromProcedure
  | _ => .unsupported w

/-- The decoder: a pure function, total, that never fails (30_encoding R75, C6). The last case is
the group `0xF`. -/
def decode (w : Word) : Instr :=
  match fieldOp w with
  | 0x0#4 => decodeWhole w
  | 0x1#4 => .jump (fieldNNN w)
  | 0x2#4 => .jumpAndLink (fieldNNN w)
  | 0x3#4 => .skipIfEqualImm (fieldX w) (fieldKK w)
  | 0x4#4 => .skipIfNotEqualImm (fieldX w) (fieldKK w)
  | 0x5#4 => .skipIfEqualReg (fieldX w) (fieldY w)
  | 0x6#4 => .setRegister (fieldX w) (fieldKK w)
  | 0x7#4 => .addValueToRegister (fieldX w) (fieldKK w)
  | 0x8#4 => decodeAlu w
  | 0x9#4 => .skipIfNotEqualReg (fieldX w) (fieldY w)
  | 0xA#4 => .setIndex (fieldNNN w)
  | 0xB#4 => .jumpWithOffset (fieldX w) (fieldNNN w)
  | 0xC#4 => .randomAnd (fieldX w) (fieldKK w)
  | 0xD#4 => .draw (fieldX w) (fieldY w) (fieldN w)
  | 0xE#4 => decodeKey w
  | _ => decodeMisc w

/-- Why a byte sequence holds no instruction word. There is one reason: the decoder is given
exactly two bytes (30_encoding R70). Every two bytes decode. -/
inductive DecodeRefusal where
  | fewerThanTwoBytes
  deriving DecidableEq, Repr

/-- Decoding from a byte sequence: the first two bytes, and what is left. -/
def decodeBytes : List Byte → Except DecodeRefusal (Instr × List Byte)
  | hi :: lo :: rest => .ok (decode (wordOfBytes hi lo), rest)
  | [_] => .error .fewerThanTwoBytes
  | [] => .error .fewerThanTwoBytes

/-- What the decoder reads from an instruction whose bits are `w` as spec/opcode_table.json numbers
them: one word of 16 bits, laid out high byte first (20_memory R51). Bits from `nbits` on are 0. -/
def decodeTableWord (nbits w : Nat) : Option Instr :=
  if nbits ≤ 16 then
    let word : Word := BitVec.ofNat 16 (w % 2 ^ nbits)
    match decodeBytes [highByte word, lowByte word] with
    | .ok (i, _) => some i
    | .error _ => none
  else none

/-! ### The encoder (30_encoding R71, R74) -/

/-- Formats `R` and `D`: four nibbles. -/
def packNibbles (op x y n : Nibble) : Word := op ++ x ++ y ++ n

/-- Formats `I` and `S`: opcode, register, low byte. -/
def packByte (op x : Nibble) (kk : Byte) : Word := op ++ x ++ kk

/-- Format `A`: opcode and address. -/
def packAddr (op : Nibble) (nnn : Addr12) : Word := op ++ nnn

/-- The word of an instruction. The ignored low nibble of `5xy_` and `9xy_` is written 0
(log entry 10). -/
def encode : Instr → Word
  | .clearScreen => 0x00E0#16
  | .returnFromProcedure => 0x00EE#16
  | .jump nnn => packAddr 0x1#4 nnn
  | .jumpAndLink nnn => packAddr 0x2#4 nnn
  | .skipIfEqualImm x kk => packByte 0x3#4 x kk
  | .skipIfNotEqualImm x kk => packByte 0x4#4 x kk
  | .skipIfEqualReg x y => packNibbles 0x5#4 x y 0x0#4
  | .setRegister x kk => packByte 0x6#4 x kk
  | .addValueToRegister x kk => packByte 0x7#4 x kk
  | .set x y => packNibbles 0x8#4 x y 0x0#4
  | .or x y => packNibbles 0x8#4 x y 0x1#4
  | .and x y => packNibbles 0x8#4 x y 0x2#4
  | .xor x y => packNibbles 0x8#4 x y 0x3#4
  | .add x y => packNibbles 0x8#4 x y 0x4#4
  | .sub x y => packNibbles 0x8#4 x y 0x5#4
  | .rShift x y => packNibbles 0x8#4 x y 0x6#4
  | .rSub x y => packNibbles 0x8#4 x y 0x7#4
  | .lShift x y => packNibbles 0x8#4 x y 0xE#4
  | .skipIfNotEqualReg x y => packNibbles 0x9#4 x y 0x0#4
  | .setIndex nnn => packAddr 0xA#4 nnn
  | .jumpWithOffset _ nnn => packAddr 0xB#4 nnn
  | .randomAnd x kk => packByte 0xC#4 x kk
  | .draw x y n => packNibbles 0xD#4 x y n
  | .skipIfKeyPressed x => packByte 0xE#4 x 0x9E#8
  | .skipIfKeyNotPressed x => packByte 0xE#4 x 0xA1#8
  | .getDelayTimer x => packByte 0xF#4 x 0x07#8
  | .getKey x => packByte 0xF#4 x 0x0A#8
  | .setDelayTimer x => packByte 0xF#4 x 0x15#8
  | .setSoundTimer x => packByte 0xF#4 x 0x18#8
  | .addToIndex x => packByte 0xF#4 x 0x1E#8
  | .setIndexToFontCharacter x => packByte 0xF#4 x 0x29#8
  | .doBCDConversion x => packByte 0xF#4 x 0x33#8
  | .storeRegistersToMemory x => packByte 0xF#4 x 0x55#8
  | .loadRegistersFromMemory x => packByte 0xF#4 x 0x65#8
  | .unsupported w => w

/-! ### The opcode map as match and mask (30_encoding R74) -/

/-- A row of R74's table: a word `w` selects it when `w & mask = bits`. -/
structure FormRow where
  bits : Word
  mask : Word
  deriving DecidableEq, Repr

/-- `w & mask_r = match_r` (30_encoding R74). -/
def FormRow.selects (r : FormRow) (w : Word) : Bool := w &&& r.mask == r.bits

/-- The row of R74 that an instruction is listed in; row 35, the complement of the others, has the
empty mask. -/
def Instr.row : Instr → FormRow
  | .clearScreen => ⟨0x00E0#16, 0xFFFF#16⟩
  | .returnFromProcedure => ⟨0x00EE#16, 0xFFFF#16⟩
  | .jump _ => ⟨0x1000#16, 0xF000#16⟩
  | .jumpAndLink _ => ⟨0x2000#16, 0xF000#16⟩
  | .skipIfEqualImm _ _ => ⟨0x3000#16, 0xF000#16⟩
  | .skipIfNotEqualImm _ _ => ⟨0x4000#16, 0xF000#16⟩
  | .skipIfEqualReg _ _ => ⟨0x5000#16, 0xF000#16⟩
  | .setRegister _ _ => ⟨0x6000#16, 0xF000#16⟩
  | .addValueToRegister _ _ => ⟨0x7000#16, 0xF000#16⟩
  | .set _ _ => ⟨0x8000#16, 0xF00F#16⟩
  | .or _ _ => ⟨0x8001#16, 0xF00F#16⟩
  | .and _ _ => ⟨0x8002#16, 0xF00F#16⟩
  | .xor _ _ => ⟨0x8003#16, 0xF00F#16⟩
  | .add _ _ => ⟨0x8004#16, 0xF00F#16⟩
  | .sub _ _ => ⟨0x8005#16, 0xF00F#16⟩
  | .rShift _ _ => ⟨0x8006#16, 0xF00F#16⟩
  | .rSub _ _ => ⟨0x8007#16, 0xF00F#16⟩
  | .lShift _ _ => ⟨0x800E#16, 0xF00F#16⟩
  | .skipIfNotEqualReg _ _ => ⟨0x9000#16, 0xF000#16⟩
  | .setIndex _ => ⟨0xA000#16, 0xF000#16⟩
  | .jumpWithOffset _ _ => ⟨0xB000#16, 0xF000#16⟩
  | .randomAnd _ _ => ⟨0xC000#16, 0xF000#16⟩
  | .draw _ _ _ => ⟨0xD000#16, 0xF000#16⟩
  | .skipIfKeyPressed _ => ⟨0xE09E#16, 0xF0FF#16⟩
  | .skipIfKeyNotPressed _ => ⟨0xE0A1#16, 0xF0FF#16⟩
  | .getDelayTimer _ => ⟨0xF007#16, 0xF0FF#16⟩
  | .getKey _ => ⟨0xF00A#16, 0xF0FF#16⟩
  | .setDelayTimer _ => ⟨0xF015#16, 0xF0FF#16⟩
  | .setSoundTimer _ => ⟨0xF018#16, 0xF0FF#16⟩
  | .addToIndex _ => ⟨0xF01E#16, 0xF0FF#16⟩
  | .setIndexToFontCharacter _ => ⟨0xF029#16, 0xF0FF#16⟩
  | .doBCDConversion _ => ⟨0xF033#16, 0xF0FF#16⟩
  | .storeRegistersToMemory _ => ⟨0xF055#16, 0xF0FF#16⟩
  | .loadRegistersFromMemory _ => ⟨0xF065#16, 0xF0FF#16⟩
  | .unsupported _ => ⟨0x0000#16, 0x0000#16⟩

/-- Rows 1 to 34 of R74, in the table's order, as match and mask. -/
def formTable : List FormRow :=
  [⟨0x00E0#16, 0xFFFF#16⟩, ⟨0x00EE#16, 0xFFFF#16⟩, ⟨0x1000#16, 0xF000#16⟩,
   ⟨0x2000#16, 0xF000#16⟩, ⟨0x3000#16, 0xF000#16⟩, ⟨0x4000#16, 0xF000#16⟩,
   ⟨0x5000#16, 0xF000#16⟩, ⟨0x6000#16, 0xF000#16⟩, ⟨0x7000#16, 0xF000#16⟩]
  ++ [⟨0x8000#16, 0xF00F#16⟩, ⟨0x8001#16, 0xF00F#16⟩, ⟨0x8002#16, 0xF00F#16⟩,
   ⟨0x8003#16, 0xF00F#16⟩, ⟨0x8004#16, 0xF00F#16⟩, ⟨0x8005#16, 0xF00F#16⟩,
   ⟨0x8006#16, 0xF00F#16⟩, ⟨0x8007#16, 0xF00F#16⟩, ⟨0x800E#16, 0xF00F#16⟩]
  ++ [⟨0x9000#16, 0xF000#16⟩, ⟨0xA000#16, 0xF000#16⟩, ⟨0xB000#16, 0xF000#16⟩,
   ⟨0xC000#16, 0xF000#16⟩, ⟨0xD000#16, 0xF000#16⟩, ⟨0xE09E#16, 0xF0FF#16⟩,
   ⟨0xE0A1#16, 0xF0FF#16⟩]
  ++ [⟨0xF007#16, 0xF0FF#16⟩, ⟨0xF00A#16, 0xF0FF#16⟩, ⟨0xF015#16, 0xF0FF#16⟩,
   ⟨0xF018#16, 0xF0FF#16⟩, ⟨0xF01E#16, 0xF0FF#16⟩, ⟨0xF029#16, 0xF0FF#16⟩,
   ⟨0xF033#16, 0xF0FF#16⟩, ⟨0xF055#16, 0xF0FF#16⟩, ⟨0xF065#16, 0xF0FF#16⟩]

end Sys2Proof
end

