-- ==== Sys2Proof/Config.lean ====
section
/-! DEFINITION. What is fixed from reset to reset (00_scope R5) and the one free value (R12). -/

namespace Sys2Proof

/-- The configuration inputs (00_scope R5), sampled at reset and held (10_state R34, R43).
`throttle_interval` has no effect on any rule (R4 (b)) and is left out. -/
structure Cfg where
  /-- `false`: legacy behaviour; `true`: updated behaviour of the six quirk instructions. -/
  isNewChip8 : Bool
  /-- `true`: an Unsupported word raises InvalidOpcode; `false`: it is a no-op. -/
  haltOnInvalid : Bool
  deriving DecidableEq, Repr

/-- FREE VALUE (log entry 5): the random byte of the `n`-th execution of RandomAnd (00_scope R12,
41_register_alu R133, D14). It has no body: a claim holds for every sequence of bytes. -/
opaque Config.rnd : Nat → Byte

end Sys2Proof
end

