-- ==== Sys2Proof/Machine/State.lean ====
section
/-! DEFINITION. The machine's state, plain data: everything 10_state gives the block, the two sampled
input lines, and two fields of the model's own (`draws`, `schedule`), with its value after reset. -/

namespace Sys2Proof.Machine

/-- A key event of the host (00_scope R10): `down = true` is KeyDown, `false` is KeyUp. -/
structure KeyEvent where
  key : Nibble
  down : Bool
  deriving DecidableEq, Repr

/-- The six fault causes (60_exceptions R200 to R207). -/
inductive FaultCause where
  /-- Unsupported executed with `halt_on_invalid` (R201). -/
  | invalidOpcode
  /-- ReturnFromProcedure with an empty stack (R202). -/
  | stackUnderflow
  /-- JumpAndLink with sixteen entries on the stack (R203). -/
  | stackOverflow
  /-- A cycle that starts with `pc >= 0xFFF` (R204). -/
  | fetchOutOfBounds
  /-- A data address above `0xFFF` (R205). -/
  | memoryOutOfBounds
  /-- The drain step saw `queue_disconnected` (R206). -/
  | keyQueueDisconnected
  deriving DecidableEq, Repr

/-- The fault record of `Faulted` (10_state R36). -/
structure FaultRecord where
  cause : FaultCause
  /-- An address, or the instruction word, or nothing (60_exceptions R207). -/
  info : Option Word
  atPc : Word
  /-- The instruction word; absent for FetchOutOfBounds and KeyQueueDisconnected. -/
  word : Option Word
  deriving DecidableEq, Repr

/-- The run status (10_state R35). -/
inductive RunStatus where
  | running
  | stopped
  | faulted (record : FaultRecord)
  deriving DecidableEq, Repr

/-- One step of one of the three agents (00_scope R8, 70_reset_and_hazards R252). -/
inductive Move where
  /-- The compute agent takes one cycle (70 R250). -/
  | cycle
  /-- The timer agent takes one tick (60 R221). -/
  | tick
  /-- The host pushes a key event (00 R10). -/
  | keyEvent (e : KeyEvent)
  /-- The host sets the level of the input line `stop` (00 R13). -/
  | setStop (level : Bool)
  /-- The host sets the level of the input line `queue_disconnected` (00 R13). -/
  | setQueueDisconnected (level : Bool)
  /-- The host ends the timer agent's ticking (60 R224). -/
  | shutdown
  /-- The host's boot sequence (70 R241): `reset` with the sampled configuration, then `rom_load`. -/
  | boot (cfg : Cfg) (rom : List Byte)
  deriving DecidableEq, Repr

/-- Memory: the cells that differ from the reset contents, addresses strictly rising (log entry 7). -/
abbrev Memory := List Host.Cell

/-- The frame buffer: 32 rows of 64 cells, `fb[row][col]`, `true` a lit pixel (10_state R32). -/
abbrev Frame := Vector (Vector Bool 64) 32

/-- The state of the block (10_state: the tuple, R37, R34). -/
structure State where
  /-- `v[0..15]`, `v[0xF]` the flag register (R20, R21). -/
  v : Vector Byte 16
  /-- The program counter (R23). -/
  pc : Word
  /-- The index register (R26). -/
  i : Word
  /-- The call stack, oldest entry first; `sp` is its length (R27). -/
  stack : List Word
  /-- The 4096 bytes of memory (R31). -/
  mem : Memory
  /-- The frame buffer (R32). -/
  fb : Frame
  /-- The delay timer (R30). -/
  delayTimer : Byte
  /-- The sound timer (R30). -/
  soundTimer : Byte
  /-- The timer agent still ticks (R37). -/
  timerRunning : Bool
  /-- The keyboard latch, bit `k` for key `k` (R33). -/
  keys : Word
  /-- The key-event queue, oldest first (R33). -/
  keyQueue : List KeyEvent
  /-- The run status and fault record (R35, R36). -/
  status : RunStatus
  /-- The configuration held since reset (R34, R43). -/
  cfg : Cfg
  /-- The level of the input line `stop` (00_scope R13). -/
  stop : Bool
  /-- The level of the input line `queue_disconnected` (00_scope R13). -/
  queueDisconnected : Bool
  /-- The MODEL's own: how many random bytes RandomAnd has drawn (log entry 5). -/
  draws : Nat
  /-- The MODEL's own: the moves to come; when empty, the compute agent moves (log entry 3). -/
  schedule : List Move
  deriving DecidableEq, Repr

/-- Why a step has no next state. The six faults of 60_exceptions are NOT here: their entry is
described (R210), so they are taken as next states whose `status` is `faulted` (log entry 1). -/
inductive Fault where
  /-- Raised by the boot move when the ROM image is longer than 3584 bytes: it would run past the last
  address of memory and the spec takes `L <= 3584` as a precondition (00_scope R9, D20). SAFE: the
  model stops where the hardware's behaviour is not given. -/
  | romImageTooLong (length : Nat)
  deriving DecidableEq, Repr

/-- Why an instruction has no meaning. No arm of `exec` uses it: every row of the opcode table has
its meaning. -/
inductive Refusal where
  /-- Raised by an arm of `exec` whose instruction has no meaning yet. SAFE: the model stops. -/
  | notModelled (mnemonic : String)
  deriving DecidableEq, Repr

/-- The frame buffer with every cell `false`. -/
def blankFrame : Frame := Vector.replicate 32 (Vector.replicate 64 false)

/-- The machine right after reset (10_state R40 to R43, 70_reset_and_hazards R240), with no ROM
loaded: `pc` at the ROM load offset, memory at its reset contents, the stack empty, status Running,
the timer agent running. The zeros of `v`, `i`, `fb`, the timers and the latch and the empty queue
are R42's (the spec's decision D3, log entry 6); the configuration, the input lines, `draws` and
`schedule` are DESIGN CHOICES (log entries 3, 4, 5, 21). -/
def State.reset : State where
  v := Vector.replicate 16 0x00#8
  pc := 0x0200#16
  i := 0x0000#16
  stack := []
  mem := []
  fb := blankFrame
  delayTimer := 0x00#8
  soundTimer := 0x00#8
  timerRunning := true
  keys := 0x0000#16
  keyQueue := []
  status := .running
  cfg := { isNewChip8 := false, haltOnInvalid := false }
  stop := false
  queueDisconnected := false
  draws := 0
  schedule := []

end Sys2Proof.Machine
end

