-- ==== Sys2Proof/Machine/Ops.lean ====
section
/-! DEFINITION. The named operations over the state: memory, registers, call stack, frame buffer,
fault entry and reset, the steps of the cycle before execute, the tick. -/

namespace Sys2Proof.Machine

/-! ### Fixed sizes (00_scope R6) -/

/-- The last address of memory (20_memory R50). -/
abbrev lastAddress : Nat := 0xFFF

/-- The font table base (20_memory R57). -/
abbrev fontBase : Nat := 0x50

/-- The ROM load offset, also the reset value of `pc` (10_state R40, R41). -/
abbrev romBase : Nat := 0x200

/-- The longest ROM image (00_scope R9). -/
abbrev romMaxSize : Nat := 3584

/-- The deepest call stack (10_state R27). -/
abbrev stackDepth : Nat := 16

/-! ### Memory (20_memory R50 to R57) -/

/-- `FONT[k]`, sixteen glyphs of five bytes (20_memory R57; PRESUMED by the spec, G2, log entry 8). -/
def fontTable : List Byte :=
  [0xF0#8, 0x90#8, 0x90#8, 0x90#8, 0xF0#8, 0x20#8, 0x60#8, 0x20#8, 0x20#8, 0x70#8,
   0xF0#8, 0x10#8, 0xF0#8, 0x80#8, 0xF0#8, 0xF0#8, 0x10#8, 0xF0#8, 0x10#8, 0xF0#8]
  ++ [0x90#8, 0x90#8, 0xF0#8, 0x10#8, 0x10#8, 0xF0#8, 0x80#8, 0xF0#8, 0x10#8, 0xF0#8,
   0xF0#8, 0x80#8, 0xF0#8, 0x90#8, 0xF0#8, 0xF0#8, 0x10#8, 0x20#8, 0x40#8, 0x40#8]
  ++ [0xF0#8, 0x90#8, 0xF0#8, 0x90#8, 0xF0#8, 0xF0#8, 0x90#8, 0xF0#8, 0x10#8, 0xF0#8,
   0xF0#8, 0x90#8, 0xF0#8, 0x90#8, 0x90#8, 0xE0#8, 0x90#8, 0xE0#8, 0x90#8, 0xE0#8]
  ++ [0xF0#8, 0x80#8, 0x80#8, 0x80#8, 0xF0#8, 0xE0#8, 0x90#8, 0x90#8, 0x90#8, 0xE0#8,
   0xF0#8, 0x80#8, 0xF0#8, 0x80#8, 0xF0#8, 0xF0#8, 0x80#8, 0xF0#8, 0x80#8, 0x80#8]

/-- What an address that no cell lists reads as: the reset contents of memory, the font table at
`0x050` to `0x09F` and zero elsewhere (10_state R41, 20_memory R57). -/
def Memory.unlisted (a : Nat) : Byte :=
  if fontBase ≤ a then fontTable[a - fontBase]?.getD 0x00#8 else 0x00#8

/-- The byte at an address. -/
def Memory.read : Memory → Nat → Byte
  | [], a => Memory.unlisted a
  | (c, b) :: rest, a => if c = a then b else Memory.read rest a

/-- List the cell `(a, b)`, in its place, over any cell listed for `a`. -/
def Memory.insert : Memory → Nat → Byte → Memory
  | [], a, b => [(a, b)]
  | (c, d) :: rest, a, b =>
    if a < c then (a, b) :: (c, d) :: rest
    else if a = c then (a, b) :: rest
    else (c, d) :: Memory.insert rest a b

/-- List no cell for `a`. -/
def Memory.erase (m : Memory) (a : Nat) : Memory := m.filter (fun cell => cell.1 != a)

/-- Set the byte at an address, keeping the canonical form. Above the last address there is no cell
and nothing is set: no instruction comes there (20_memory R52, log entry 12). -/
def Memory.write (m : Memory) (a : Nat) (b : Byte) : Memory :=
  if a ≤ lastAddress then
    if b = Memory.unlisted a then m.erase a else m.insert a b
  else m

/-- The canonical form: addresses strictly rising and inside the address space, no cell equal to what
an unlisted address reads as (log entry 7). -/
abbrev Memory.wf (m : Memory) : Prop :=
  m.Pairwise (fun c d => c.1 < d.1) ∧ ∀ c ∈ m, c.1 ≤ lastAddress ∧ c.2 ≠ Memory.unlisted c.1

/-- Store bytes at consecutive addresses from `a` on, in ascending order (20_memory R54). -/
def Memory.writeBytes (m : Memory) (a : Nat) : List Byte → Memory
  | [] => m
  | b :: rest => Memory.writeBytes (m.write a b) (a + 1) rest

/-! ### Registers and the named updates -/

/-- `v[x]` (10_state R20). -/
def State.reg (s : State) (x : Nibble) : Byte := s.v[x.toNat]'x.isLt

/-- `v[x] <- b` (10_state R20): no register is hard-wired. -/
def State.setReg (s : State) (x : Nibble) (b : Byte) : State :=
  { s with v := s.v.set x.toNat b x.isLt }

def State.setPc (s : State) (a : Word) : State := { s with pc := a }
def State.setIndex (s : State) (a : Word) : State := { s with i := a }
def State.setStack (s : State) (l : List Word) : State := { s with stack := l }
def State.setMem (s : State) (m : Memory) : State := { s with mem := m }
def State.setFrame (s : State) (f : Frame) : State := { s with fb := f }
def State.setDelayTimer (s : State) (b : Byte) : State := { s with delayTimer := b }
def State.setSoundTimer (s : State) (b : Byte) : State := { s with soundTimer := b }
def State.setStatus (s : State) (r : RunStatus) : State := { s with status := r }
def State.setSchedule (s : State) (l : List Move) : State := { s with schedule := l }

/-- One more random byte has been drawn (00_scope R12, log entry 5). -/
def State.countDraw (s : State) : State := { s with draws := s.draws + 1 }

/-- One byte of memory, as a reader of the state sees it. -/
def State.byteAt (s : State) (a : Nat) : Byte := s.mem.read a

/-! ### The call stack (10_state R27 to R29) -/

/-- `push(val)` (10_state R28): the state with the entry added, or nothing when the stack already
holds sixteen (then StackOverflow, D5, log entry 11). -/
def State.push (s : State) (val : Word) : Option State :=
  if s.stack.length < stackDepth then some (s.setStack (s.stack ++ [val])) else none

/-- `pop()` (10_state R29): the newest entry and the state without it, or nothing when the stack is
empty (then StackUnderflow). -/
def State.pop (s : State) : Option (Word × State) :=
  match s.stack.getLast? with
  | some val => some (val, s.setStack s.stack.dropLast)
  | none => none

/-! ### The frame buffer (10_state R32, 00_scope R15) -/

/-- `fb[row][col]`. -/
def Frame.pixel (f : Frame) (row : Fin 32) (col : Fin 64) : Bool := (f.get row).get col

/-- `fb[row][col] <- b`. -/
def Frame.setPixel (f : Frame) (row : Fin 32) (col : Fin 64) (b : Bool) : Frame :=
  f.set row.val ((f.get row).set col.val b col.isLt) row.isLt

/-! ### Fault entry, and the way out (60_exceptions R210 to R212) -/

/-- The code of a cause at the `status` output (60_exceptions R207); code 0 is not used. -/
def FaultCause.code : FaultCause → Nat
  | .invalidOpcode => 1
  | .stackUnderflow => 2
  | .stackOverflow => 3
  | .fetchOutOfBounds => 4
  | .memoryOutOfBounds => 5
  | .keyQueueDisconnected => 6

/-- TAKING A FAULT (60_exceptions R210): `status <- Faulted(cause, info, at_pc, word)`; no vector, no
handler, no saved registers, no mode change. The `pc` is left at the faulting instruction's address
(R211, D4, log entry 20). -/
def State.raise (s : State) (cause : FaultCause) (info : Option Word) (atPc : Word)
    (word : Option Word) : State :=
  { s with
    pc := atPc
    status := .faulted { cause := cause, info := info, atPc := atPc, word := word } }

/-- A fault raised in the execute phase by the instruction `ins`: `pc` holds `a + 2` there, so the
instruction was fetched from `pc - 2`, and the advance is not kept (60_exceptions R211). -/
def State.raiseIn (s : State) (ins : Instr) (cause : FaultCause) (info : Option Word) : State :=
  s.raise cause info (s.pc - 2#16) (some (encode ins))

/-- Several data accesses, checked before the first of them is made: if an address is above `0xFFF`,
MemoryOutOfBounds with the lowest offending one and nothing else, and `done` otherwise. The
addresses are given in ascending order (20_memory R52, R54). -/
def State.checked (s : State) (ins : Instr) (addresses : List Nat) (done : State) : State :=
  match addresses.find? (fun a => decide (lastAddress < a)) with
  | some a => s.raiseIn ins .memoryOutOfBounds (some (BitVec.ofNat 16 a))
  | none => done

/-- THE WAY OUT OF A FAULT: there is no return from one; `Faulted` and `Stopped` are left only by
reset, which discards all state (60_exceptions R212, 70_reset_and_hazards R240). The configuration
is sampled here (10_state R43). The input lines are not state and keep their level; the schedule goes
on, and the random source does not start again (log entries 3, 5, 21). -/
def State.resetInput (s : State) (cfg : Cfg) : State :=
  { State.reset with
    cfg := cfg
    stop := s.stop
    queueDisconnected := s.queueDisconnected
    draws := s.draws
    schedule := s.schedule }

/-- `rom_load(bytes)`: the image verbatim from `0x200` on (00_scope R9). -/
def State.romLoad (s : State) (rom : List Byte) : State :=
  s.setMem (s.mem.writeBytes romBase rom)

/-! ### The cycle before execute (70_reset_and_hazards R250) -/

/-- One event applied to the latch: `keys[key] <- down` (10_state R33). -/
def applyKeyEvent (keys : Word) (e : KeyEvent) : Word :=
  let bit : Word := 0x0001#16 <<< e.key.toNat
  if e.down then keys ||| bit else keys &&& ~~~bit

/-- Step 2 of the cycle: all queued events applied to the latch, oldest first, and the queue emptied
(10_state R33). -/
def State.drain (s : State) : State :=
  { s with keys := s.keyQueue.foldl applyKeyEvent s.keys, keyQueue := [] }

/-- Step 3 of the cycle: the word at `pc`, big-endian, or nothing when `pc >= 0xFFF`
(20_memory R51, R53). Fetch reads `mem` itself (R62), at any parity of `pc` (R55). -/
def State.fetch (s : State) : Option Word :=
  if s.pc.toNat < lastAddress then
    some (wordOfBytes (s.mem.read s.pc.toNat) (s.mem.read (s.pc.toNat + 1)))
  else none

/-- Step 4 of the cycle: `pc <- a + 2`, before execute (10_state R23). -/
def State.advancePc (s : State) : State := s.setPc (s.pc + 2#16)

/-- "advance `pc` by an additional 2 bytes when the comparison holds" (40_control_flow R103). -/
def State.skipIf (s : State) (condition : Bool) : State :=
  if condition then s.setPc (s.pc + 2#16) else s

/-! ### The timer agent and the host (60_exceptions R220 to R224, 00_scope R10, R11) -/

/-- A counter after a tick: one less, floored at zero (60_exceptions R221). -/
def countDown (b : Byte) : Byte := if b = 0x00#8 then 0x00#8 else b - 1#8

/-- The tick: both counters, only while the timer agent runs (60_exceptions R221, 10_state R37). -/
def State.tick (s : State) : State :=
  if s.timerRunning then
    { s with delayTimer := countDown s.delayTimer, soundTimer := countDown s.soundTimer }
  else s

/-- `shutdown`: idempotent (60_exceptions R224). -/
def State.shutdown (s : State) : State := { s with timerRunning := false }

/-- `key_event(key, down)`: the event joins the queue (00_scope R10). -/
def State.pushKeyEvent (s : State) (e : KeyEvent) : State :=
  { s with keyQueue := s.keyQueue ++ [e] }

/-- The output `fb_read` (00_scope R11). -/
def State.fbRead (s : State) : Frame := s.fb

/-- The output `sound_active = (sound_timer != 0)` (00_scope R11). -/
def State.soundActive (s : State) : Bool := s.soundTimer != 0x00#8

/-- The output `status` (00_scope R11, 10_state R35, R36). -/
def State.statusRead (s : State) : RunStatus := s.status

end Sys2Proof.Machine
end

