-- ==== Sys2Proof/Machine/Operands.lean ====
section
/-! DEFINITION. The operand forms: what an instruction reads, before anything is written
(00_scope R15, 30_encoding R73). -/

namespace Sys2Proof.Machine

/-- `zext_16(nnn)`: an address operand is a byte address, not scaled (30_encoding R73). -/
def addrOperand (nnn : Addr12) : Word := nnn.setWidth 16

/-- The value the two shifts start from: `v[x]` under the updated behaviour, `v[y]` under the legacy
behaviour (41_register_alu R130, R131). -/
def State.shiftOperand (s : State) (x y : Nibble) : Byte :=
  if s.cfg.isNewChip8 then s.reg x else s.reg y

/-- The register that supplies JumpWithOffset's offset: `x` under the updated behaviour, register 0
under the legacy behaviour (40_control_flow R107, 30_encoding R79). -/
def State.offsetRegister (s : State) (x : Nibble) : Nibble :=
  if s.cfg.isNewChip8 then x else 0x0#4

/-- The target of JumpWithOffset, not reduced (40_control_flow R107, D28, log entry 19). -/
def State.offsetTarget (s : State) (x : Nibble) (nnn : Addr12) : Word :=
  addrOperand nnn + (s.reg (s.offsetRegister x)).setWidth 16

/-- The data addresses `i`, `i + 1`, ..., `i + (n - 1)`, natural numbers (20_memory R52). -/
def State.indexRun (s : State) (n : Nat) : List Nat :=
  (List.range n).map (fun k => s.i.toNat + k)

/-- The sum `s = i + v[x]` of AddToIndex, a natural number (45_index_memory R171). -/
def State.indexSum (s : State) (x : Nibble) : Nat := s.i.toNat + (s.reg x).toNat

/-- The address of the glyph of a digit: `0x50 + 5 * digit`, the whole byte used
(45_index_memory R172, D9, log entry 14). -/
def glyphAddress (digit : Byte) : Word := BitVec.ofNat 16 (fontBase + 5 * digit.toNat)

/-- Hundreds, tens and units of a byte, most significant first, a byte each (45_index_memory R173). -/
def bcdDigits (d : Byte) : List Byte :=
  [BitVec.ofNat 8 (d.toNat / 100), BitVec.ofNat 8 (d.toNat / 10 % 10),
   BitVec.ofNat 8 (d.toNat % 10)]

/-- `v[0]` to `v[x]`, ascending (45_index_memory R174). -/
def State.regsUpTo (s : State) (x : Nibble) : List Byte :=
  (List.range (x.toNat + 1)).map (fun k => s.reg (BitVec.ofNat 4 k))

/-- `v[k] <- mem[i + k]` for `k` in the list, in its order (45_index_memory R175). -/
def State.loadRegs (s : State) : List Nat → State
  | [] => s
  | k :: rest =>
    State.loadRegs (s.setReg (BitVec.ofNat 4 k) (s.mem.read (s.i.toNat + k))) rest

/-- The post-modification of the two block transfers: `i + x + 1` under the legacy behaviour, `i`
under the updated behaviour (45_index_memory R174 to R176). -/
def State.bumpIndex (s : State) (x : Nibble) : State :=
  if s.cfg.isNewChip8 then s else s.setIndex (s.i + x.setWidth 16 + 1#16)

/-- The key named by a register's value is down; a value above `0xF` names no key and counts as up
(43_keyboard R150, D10, log entry 15). -/
def State.keyDown (s : State) (k : Byte) : Bool :=
  decide (k.toNat ≤ 0xF) && s.keys.getLsbD k.toNat

/-- The lowest key down, if any: keys 0 to 0xF in ascending order (43_keyboard R152). -/
def State.lowestKeyDown (s : State) : Option Nat :=
  (List.range 16).find? (fun k => s.keys.getLsbD k)

/-- The sprite rows that are drawn: `{ k | 0 <= k < n and y0 + k < 32 }`, ascending; the others are
skipped (42_display R141). The origin is not reduced (R142, D12, log entry 17). -/
def drawnRows (y0 n : Nat) : List Nat := (List.range n).filter (fun k => decide (y0 + k < 32))

/-- The pixel of sprite byte `b` at offset `j` from the left: bit 7 is leftmost (42_display R141). -/
def spriteBit (b : Byte) (j : Nat) : Bool := b.getLsbD (7 - j)

end Sys2Proof.Machine
end

