-- ==== Sys2Proof/Machine/Flags.lean ====
section
/-! DEFINITION. The flag computations: what goes to `vF`, and when (10_state R21, 41_register_alu). -/

namespace Sys2Proof.Machine

/-- The flag register's index (10_state R21). -/
abbrev flagReg : Nibble := 0xF#4

/-- A flag as the byte that is written to `vF`: 1 or 0. -/
def flagByte (b : Bool) : Byte := if b then 0x01#8 else 0x00#8

/-- Add: `v[x] + v[y] > 255` on natural numbers (41_register_alu R128). -/
def carryOut (a b : Byte) : Bool := decide (255 < a.toNat + b.toNat)

/-- Sub and RSub: left >= right before subtraction (41_register_alu R129, R132, C4). -/
def noBorrow (left right : Byte) : Bool := decide (right.toNat ≤ left.toNat)

/-- RShift: the bit shifted out, bit 0 (41_register_alu R130). -/
def lowBitOut (t : Byte) : Bool := t.getLsbD 0

/-- LShift: the bit shifted out, bit 7 (41_register_alu R131). -/
def highBitOut (t : Byte) : Bool := t.getLsbD 7

/-- AddToIndex under the updated behaviour: the sum is past `0xFFF` (45_index_memory R171). -/
def indexOverflow (sum : Nat) : Bool := decide (lastAddress < sum)

/-- `vF <- flag`. -/
def State.setFlag (s : State) (b : Bool) : State := s.setReg flagReg (flagByte b)

/-- The result to `v[x]`, then the flag to `vF`, which therefore holds the flag when `x = F`
(41_register_alu R121, D11, log entry 16). -/
def State.setResultFlag (s : State) (x : Nibble) (result : Byte) (flag : Bool) : State :=
  (s.setReg x result).setFlag flag

end Sys2Proof.Machine
end

