-- ==== Sys2Proof/Machine/Alu.lean ====
section
/-! DEFINITION. The register, immediate and ALU instructions (41_register_alu R120 to R133). All
sources are read first, then the result is written, then the flag (R121). -/

namespace Sys2Proof.Machine

/-- SetRegister (R122): `v[x] <- kk`. -/
def execSetRegister (x : Nibble) (kk : Byte) (s : State) : Host.Outcome State Fault Refusal :=
  .next (s.setReg x kk)

/-- AddValueToRegister (R123): wraps modulo 256, no flag. -/
def execAddValueToRegister (x : Nibble) (kk : Byte) (s : State) :
    Host.Outcome State Fault Refusal :=
  .next (s.setReg x (s.reg x + kk))

/-- Set (R124): `v[x] <- v[y]`. -/
def execSet (x y : Nibble) (s : State) : Host.Outcome State Fault Refusal :=
  .next (s.setReg x (s.reg y))

/-- Or (R125): no flag. -/
def execOr (x y : Nibble) (s : State) : Host.Outcome State Fault Refusal :=
  .next (s.setReg x (s.reg x ||| s.reg y))

/-- And (R126): no flag. -/
def execAnd (x y : Nibble) (s : State) : Host.Outcome State Fault Refusal :=
  .next (s.setReg x (s.reg x &&& s.reg y))

/-- Xor (R127): no flag. -/
def execXor (x y : Nibble) (s : State) : Host.Outcome State Fault Refusal :=
  .next (s.setReg x (s.reg x ^^^ s.reg y))

/-- Add (R128): wrapped sum, `vF` the carry. -/
def execAdd (x y : Nibble) (s : State) : Host.Outcome State Fault Refusal :=
  .next (s.setResultFlag x (s.reg x + s.reg y) (carryOut (s.reg x) (s.reg y)))

/-- Sub (R129): `v[x] - v[y]` wrapped, `vF` 1 when no borrow. -/
def execSub (x y : Nibble) (s : State) : Host.Outcome State Fault Refusal :=
  .next (s.setResultFlag x (s.reg x - s.reg y) (noBorrow (s.reg x) (s.reg y)))

/-- RShift (R130): the shift operand one place right, `vF` its bit 0. -/
def execRShift (x y : Nibble) (s : State) : Host.Outcome State Fault Refusal :=
  .next (s.setResultFlag x (s.shiftOperand x y >>> 1) (lowBitOut (s.shiftOperand x y)))

/-- RSub (R132): `v[y] - v[x]` wrapped into `v[x]`, `vF` 1 when no borrow. -/
def execRSub (x y : Nibble) (s : State) : Host.Outcome State Fault Refusal :=
  .next (s.setResultFlag x (s.reg y - s.reg x) (noBorrow (s.reg y) (s.reg x)))

/-- LShift (R131): the shift operand one place left, `vF` its bit 7. -/
def execLShift (x y : Nibble) (s : State) : Host.Outcome State Fault Refusal :=
  .next (s.setResultFlag x (s.shiftOperand x y <<< 1) (highBitOut (s.shiftOperand x y)))

/-- RandomAnd (R133): `v[x] <- rnd & kk`, `rnd` the next free value (log entry 5). -/
def execRandomAnd (x : Nibble) (kk : Byte) (s : State) : Host.Outcome State Fault Refusal :=
  .next (s.setReg x (Config.rnd s.draws &&& kk)).countDraw

end Sys2Proof.Machine
end

