-- ==== Sys2Proof/Machine/ControlFlow.lean ====
section
/-! DEFINITION. The control-transfer instructions (40_control_flow R100 to R107). On entry to every
meaning of every family `pc` holds `a + 2`, the address of the next word. -/

namespace Sys2Proof.Machine

/-- Jump (R100): `pc <- zext_16(nnn)`. -/
def execJump (nnn : Addr12) (s : State) : Host.Outcome State Fault Refusal :=
  .next (s.setPc (addrOperand nnn))

/-- JumpAndLink (R101): `push(pc); pc <- zext_16(nnn)`; StackOverflow at sixteen entries. -/
def execJumpAndLink (nnn : Addr12) (s : State) : Host.Outcome State Fault Refusal :=
  match s.push s.pc with
  | some t => .next (t.setPc (addrOperand nnn))
  | none => .next (s.raiseIn (.jumpAndLink nnn) .stackOverflow none)

/-- ReturnFromProcedure (R102): `pc <- pop()`; StackUnderflow on an empty stack. -/
def execReturnFromProcedure (s : State) : Host.Outcome State Fault Refusal :=
  match s.pop with
  | some (target, t) => .next (t.setPc target)
  | none => .next (s.raiseIn .returnFromProcedure .stackUnderflow none)

/-- SkipIfEqualImm (R103). -/
def execSkipIfEqualImm (x : Nibble) (kk : Byte) (s : State) : Host.Outcome State Fault Refusal :=
  .next (s.skipIf (s.reg x == kk))

/-- SkipIfNotEqualImm (R104). -/
def execSkipIfNotEqualImm (x : Nibble) (kk : Byte) (s : State) :
    Host.Outcome State Fault Refusal :=
  .next (s.skipIf (s.reg x != kk))

/-- SkipIfEqualReg (R105). -/
def execSkipIfEqualReg (x y : Nibble) (s : State) : Host.Outcome State Fault Refusal :=
  .next (s.skipIf (s.reg x == s.reg y))

/-- SkipIfNotEqualReg (R106). -/
def execSkipIfNotEqualReg (x y : Nibble) (s : State) : Host.Outcome State Fault Refusal :=
  .next (s.skipIf (s.reg x != s.reg y))

/-- JumpWithOffset (R107): `pc <- zext_16(nnn) + zext_16(v[r])`. -/
def execJumpWithOffset (x : Nibble) (nnn : Addr12) (s : State) :
    Host.Outcome State Fault Refusal :=
  .next (s.setPc (s.offsetTarget x nnn))

end Sys2Proof.Machine
end

