-- ==== Sys2Proof/Machine/Display.lean ====
section
/-! DEFINITION. The display instructions, the sprite rasterizer and the collision detector
(42_display R140 to R146). -/

namespace Sys2Proof.Machine

/-- ClearScreen (R140): every cell false; `vF` unchanged. -/
def execClearScreen (s : State) : Host.Outcome State Fault Refusal :=
  .next (s.setFrame blankFrame)

/-- One pixel of R141's inner loop on the frame buffer and the collision so far: column `x0 + j` of
row `row` takes the exclusive or with the sprite's bit; a column past the right edge is dropped. -/
def xorPixel (x0 : Nat) (row : Fin 32) (b : Byte) (acc : Frame × Bool) (j : Nat) : Frame × Bool :=
  if h : x0 + j < 64 then
    let old := acc.1.pixel row ⟨x0 + j, h⟩
    (acc.1.setPixel row ⟨x0 + j, h⟩ (old ^^ spriteBit b j), acc.2 || (old && spriteBit b j))
  else acc

/-- One sprite row: its eight pixels, leftmost first. A row at or past the bottom edge is skipped. -/
def xorRow (x0 y0 : Nat) (byteOf : Nat → Byte) (acc : Frame × Bool) (k : Nat) : Frame × Bool :=
  if h : y0 + k < 32 then
    (List.range 8).foldl (xorPixel x0 ⟨y0 + k, h⟩ (byteOf k)) acc
  else acc

/-- The whole sprite: the drawn rows in ascending order; `byteOf k` is sprite row `k`. Answers the
frame buffer after and whether a set pixel was unset. -/
def drawSprite (x0 y0 n : Nat) (byteOf : Nat → Byte) (f : Frame) : Frame × Bool :=
  (drawnRows y0 n).foldl (xorRow x0 y0 byteOf) (f, false)

/-- Draw (R141): position from `v[x]`, `v[y]` as they are, row `k` from `mem[i + k]`; the addresses of
the drawn rows are checked first; `vF` the collision, after all pixels. -/
def execDraw (x y n : Nibble) (s : State) : Host.Outcome State Fault Refusal :=
  let x0 := (s.reg x).toNat
  let y0 := (s.reg y).toNat
  let out := drawSprite x0 y0 n.toNat (fun k => s.mem.read (s.i.toNat + k)) s.fb
  .next (s.checked (.draw x y n) ((drawnRows y0 n.toNat).map (fun k => s.i.toNat + k))
    ((s.setFrame out.1).setFlag out.2))

end Sys2Proof.Machine
end

