-- ==== Sys2Proof/Machine/IndexMemory.lean ====
section
/-! DEFINITION. The index-register and memory instructions (45_index_memory R170 to R176). -/

namespace Sys2Proof.Machine

/-- SetIndex (R170): `i <- zext_16(nnn)`. -/
def execSetIndex (nnn : Addr12) (s : State) : Host.Outcome State Fault Refusal :=
  .next (s.setIndex (addrOperand nnn))

/-- AddToIndex (R171): updated: modulo `0x1000`, `vF <- 1` past `0xFFF` and otherwise not written
(D8); legacy: modulo `0x10000`, `vF` not written (D7; log entry 13). -/
def execAddToIndex (x : Nibble) (s : State) : Host.Outcome State Fault Refusal :=
  if s.cfg.isNewChip8 then
    let t := s.setIndex (BitVec.ofNat 16 (s.indexSum x % 0x1000))
    .next (if indexOverflow (s.indexSum x) then t.setFlag true else t)
  else .next (s.setIndex (BitVec.ofNat 16 (s.indexSum x)))

/-- SetIndexToFontCharacter (R172): `i <- 0x50 + 5 * v[x]`. -/
def execSetIndexToFontCharacter (x : Nibble) (s : State) : Host.Outcome State Fault Refusal :=
  .next (s.setIndex (glyphAddress (s.reg x)))

/-- DoBCDConversion (R173): hundreds, tens, units at `i`, `i + 1`, `i + 2`; `i` unchanged. -/
def execDoBCDConversion (x : Nibble) (s : State) : Host.Outcome State Fault Refusal :=
  .next (s.checked (.doBCDConversion x) (s.indexRun 3)
    (s.setMem (s.mem.writeBytes s.i.toNat (bcdDigits (s.reg x)))))

/-- StoreRegistersToMemory (R174): `v[0]` to `v[x]` at `i` on; legacy: `i <- i + x + 1`. -/
def execStoreRegistersToMemory (x : Nibble) (s : State) : Host.Outcome State Fault Refusal :=
  .next (s.checked (.storeRegistersToMemory x) (s.indexRun (x.toNat + 1))
    ((s.setMem (s.mem.writeBytes s.i.toNat (s.regsUpTo x))).bumpIndex x))

/-- LoadRegistersFromMemory (R175): `v[0]` to `v[x]` from `i` on; legacy: `i <- i + x + 1`. -/
def execLoadRegistersFromMemory (x : Nibble) (s : State) : Host.Outcome State Fault Refusal :=
  .next (s.checked (.loadRegistersFromMemory x) (s.indexRun (x.toNat + 1))
    ((s.loadRegs (List.range (x.toNat + 1))).bumpIndex x))

end Sys2Proof.Machine
end

