-- ==== Sys2Proof/Machine/Keyboard.lean ====
section
/-! DEFINITION. The keyboard instructions (43_keyboard R150 to R153). They read the latch as the drain
of the same cycle left it. -/

namespace Sys2Proof.Machine

/-- SkipIfKeyPressed (R150). -/
def execSkipIfKeyPressed (x : Nibble) (s : State) : Host.Outcome State Fault Refusal :=
  .next (s.skipIf (s.keyDown (s.reg x)))

/-- SkipIfKeyNotPressed (R151). -/
def execSkipIfKeyNotPressed (x : Nibble) (s : State) : Host.Outcome State Fault Refusal :=
  .next (s.skipIf (!s.keyDown (s.reg x)))

/-- GetKey (R152): no key down, rewind to this instruction; else the lowest key's number. -/
def execGetKey (x : Nibble) (s : State) : Host.Outcome State Fault Refusal :=
  match s.lowestKeyDown with
  | none => .next (s.setPc (s.pc - 2#16))
  | some k => .next (s.setReg x (BitVec.ofNat 8 k))

end Sys2Proof.Machine
end

