-- ==== Sys2Proof/Machine/TimerOps.lean ====
section
/-! DEFINITION. The timer access instructions (44_timer_ops R160 to R162). -/

namespace Sys2Proof.Machine

/-- GetDelayTimer (R160): `v[x] <- delay_timer`. -/
def execGetDelayTimer (x : Nibble) (s : State) : Host.Outcome State Fault Refusal :=
  .next (s.setReg x s.delayTimer)

/-- SetDelayTimer (R161): `delay_timer <- v[x]`. -/
def execSetDelayTimer (x : Nibble) (s : State) : Host.Outcome State Fault Refusal :=
  .next (s.setDelayTimer (s.reg x))

/-- SetSoundTimer (R162): `sound_timer <- v[x]`. -/
def execSetSoundTimer (x : Nibble) (s : State) : Host.Outcome State Fault Refusal :=
  .next (s.setSoundTimer (s.reg x))

end Sys2Proof.Machine
end

