-- ==== Sys2Proof/Machine/Unsupported.lean ====
section
/-! DEFINITION. The Unsupported form (46_unsupported R190). -/

namespace Sys2Proof.Machine

/-- Unsupported (R190): InvalidOpcode with the word when `halt_on_invalid`, else nothing. -/
def execUnsupported (w : Word) (s : State) : Host.Outcome State Fault Refusal :=
  if s.cfg.haltOnInvalid then .next (s.raiseIn (.unsupported w) .invalidOpcode (some w))
  else .next s

end Sys2Proof.Machine
end

