-- ==== Sys2Proof/Machine/Dispatch.lean ====
section
/-! DEFINITION. The dispatch: one arm per instruction form, each one call of its meaning. -/

namespace Sys2Proof.Machine

def exec (i : Instr) (s : State) : Host.Outcome State Fault Refusal :=
  match i with
  | .clearScreen => Sys2Proof.Machine.execClearScreen s
  | .returnFromProcedure => Sys2Proof.Machine.execReturnFromProcedure s
  | .jump nnn => Sys2Proof.Machine.execJump nnn s
  | .jumpAndLink nnn => Sys2Proof.Machine.execJumpAndLink nnn s
  | .skipIfEqualImm x kk => Sys2Proof.Machine.execSkipIfEqualImm x kk s
  | .skipIfNotEqualImm x kk => Sys2Proof.Machine.execSkipIfNotEqualImm x kk s
  | .skipIfEqualReg x y => Sys2Proof.Machine.execSkipIfEqualReg x y s
  | .setRegister x kk => Sys2Proof.Machine.execSetRegister x kk s
  | .addValueToRegister x kk => Sys2Proof.Machine.execAddValueToRegister x kk s
  | .set x y => Sys2Proof.Machine.execSet x y s
  | .or x y => Sys2Proof.Machine.execOr x y s
  | .and x y => Sys2Proof.Machine.execAnd x y s
  | .xor x y => Sys2Proof.Machine.execXor x y s
  | .add x y => Sys2Proof.Machine.execAdd x y s
  | .sub x y => Sys2Proof.Machine.execSub x y s
  | .rShift x y => Sys2Proof.Machine.execRShift x y s
  | .rSub x y => Sys2Proof.Machine.execRSub x y s
  | .lShift x y => Sys2Proof.Machine.execLShift x y s
  | .skipIfNotEqualReg x y => Sys2Proof.Machine.execSkipIfNotEqualReg x y s
  | .setIndex nnn => Sys2Proof.Machine.execSetIndex nnn s
  | .jumpWithOffset x nnn => Sys2Proof.Machine.execJumpWithOffset x nnn s
  | .randomAnd x kk => Sys2Proof.Machine.execRandomAnd x kk s
  | .draw x y n => Sys2Proof.Machine.execDraw x y n s
  | .skipIfKeyPressed x => Sys2Proof.Machine.execSkipIfKeyPressed x s
  | .skipIfKeyNotPressed x => Sys2Proof.Machine.execSkipIfKeyNotPressed x s
  | .getDelayTimer x => Sys2Proof.Machine.execGetDelayTimer x s
  | .getKey x => Sys2Proof.Machine.execGetKey x s
  | .setDelayTimer x => Sys2Proof.Machine.execSetDelayTimer x s
  | .setSoundTimer x => Sys2Proof.Machine.execSetSoundTimer x s
  | .addToIndex x => Sys2Proof.Machine.execAddToIndex x s
  | .setIndexToFontCharacter x => Sys2Proof.Machine.execSetIndexToFontCharacter x s
  | .doBCDConversion x => Sys2Proof.Machine.execDoBCDConversion x s
  | .storeRegistersToMemory x => Sys2Proof.Machine.execStoreRegistersToMemory x s
  | .loadRegistersFromMemory x => Sys2Proof.Machine.execLoadRegistersFromMemory x s
  | .unsupported w => Sys2Proof.Machine.execUnsupported w s

end Sys2Proof.Machine
end

