-- ==== Sys2Proof/Machine/Cycle.lean ====
section
/-! DEFINITION. One step of each agent: the cycle of the compute agent (70_reset_and_hazards R250), the
tick of the timer agent, the moves of the host (R252). -/

namespace Sys2Proof.Machine

/-- One step of the compute agent (70_reset_and_hazards R250), with the checks in the order of
60_exceptions R209. Once the run has ended it takes no step and the state stays (10_state R35,
log entry 2). -/
def cycle (s : State) : Host.Outcome State Fault Refusal :=
  match s.status with
  | .running =>
    if s.stop then .next (s.setStatus .stopped)
    else if s.queueDisconnected then .next (s.raise .keyQueueDisconnected none s.pc none)
    else
      match s.drain.fetch with
      | none => .next (s.drain.raise .fetchOutOfBounds (some s.pc) s.pc none)
      | some w => exec (decode w) s.drain.advancePc
  | .stopped => .next s
  | .faulted _ => .next s

/-- One step of the agent that a move names (70_reset_and_hazards R252). A boot is reset and then
`rom_load`, with nothing between (R241); an image that does not fit has no meaning (00_scope R9). -/
def perform (m : Move) (s : State) : Host.Outcome State Fault Refusal :=
  match m with
  | .cycle => cycle s
  | .tick => .next s.tick
  | .keyEvent e => .next (s.pushKeyEvent e)
  | .setStop level => .next { s with stop := level }
  | .setQueueDisconnected level => .next { s with queueDisconnected := level }
  | .shutdown => .next s.shutdown
  | .boot cfg rom =>
    if rom.length ≤ romMaxSize then .next ((s.resetInput cfg).romLoad rom)
    else .fault (.romImageTooLong rom.length)

/-- An instruction word placed where the next cycle fetches, and everything that cycle needs to run it:
status Running, both input lines low, no other agent's move first, and a `pc` inside memory. -/
def State.placeWord (s : State) (w : Word) : State :=
  let a : Word := if s.pc.toNat < lastAddress then s.pc else BitVec.ofNat 16 romBase
  { s with
    pc := a
    mem := s.mem.writeBytes a.toNat [highByte w, lowByte w]
    status := .running
    stop := false
    queueDisconnected := false
    schedule := [] }

end Sys2Proof.Machine
end

