-- ==== Sys2Proof/Machine/Step.lean ====
section
/-! DEFINITION. One step of the machine: the next move of the schedule, or, when it is empty, one cycle
of the compute agent (70_reset_and_hazards R252, log entry 3). -/

namespace Sys2Proof.Machine

def step (s : State) : Host.Outcome State Fault Refusal :=
  match s.schedule with
  | [] => cycle s
  | m :: rest => perform m (s.setSchedule rest)

/-- `s` with the instruction whose bits are `w` (numbered as spec/opcode_table.json numbers them, those
from `nbits` on zero) stored where `step` fetches next. It stands for the host's `rom_load`
(log entry 24). -/
def State.withFetchWord (s : State) (nbits w : Nat) : State :=
  s.placeWord (BitVec.ofNat 16 (w % 2 ^ nbits))

end Sys2Proof.Machine
end

