-- ==== Sys2Proof/Safety.lean ====
section
/-! DEFINITION. What counts as a good state and a safe run, in the terms the statements use. -/

namespace Sys2Proof.Machine

/-- The run has ended: `Stopped` or `Faulted` (10_state R35). -/
def State.ended (s : State) : Prop := s.status ≠ .running

/-- A safe state: no fault has been raised. -/
def State.safe (s : State) : Prop := ∀ r, s.status ≠ .faulted r

/-- What a fault record holds in the state it was raised in, cause by cause: `info` and `word`
(60_exceptions R207, 10_state R36) and the condition that raised it (R201 to R206), which still holds there
because a fault changes nothing else (R211). Nothing but a reset ends that state, so the condition goes on
holding. The record is the spec's decision D4 (log entry 20). -/
def FaultRecord.consistent (r : FaultRecord) (s : State) : Prop :=
  match r.cause with
  | .invalidOpcode => s.cfg.haltOnInvalid = true
      ∧ ∃ w, r.info = some w ∧ r.word = some w ∧ decode w = .unsupported w
  | .stackUnderflow => s.stack = [] ∧ r.info = none ∧ r.word = some 0x00EE#16
  | .stackOverflow => s.stack.length = Sys2Proof.Machine.stackDepth ∧ r.info = none
      ∧ ∃ w nnn, r.word = some w ∧ decode w = .jumpAndLink nnn
  | .fetchOutOfBounds => r.info = some r.atPc ∧ r.word = none ∧ lastAddress ≤ r.atPc.toNat
  | .memoryOutOfBounds =>
    (∃ a : Word, r.info = some a ∧ a.toNat = max s.i.toNat 0x1000)
      ∧ ∃ w, r.word = some w
        ∧ ((∃ x y n, decode w = .draw x y n
              ∧ ∃ k, k < n.toNat ∧ (s.reg y).toNat + k < 32 ∧ 0xFFF < s.i.toNat + k)
          ∨ (∃ x, decode w = .doBCDConversion x ∧ 0xFFF < s.i.toNat + 2)
          ∨ (∃ x, (decode w = .storeRegistersToMemory x ∨ decode w = .loadRegistersFromMemory x)
              ∧ 0xFFF < s.i.toNat + x.toNat))
  | .keyQueueDisconnected => r.info = none ∧ r.word = none

/-- What every state of a run satisfies. -/
structure State.Inv (s : State) : Prop where
  /-- Memory is inside the address space (20_memory R50) and keeps its canonical form, the model's
  representation (log entry 7). -/
  memWf : s.mem.wf
  /-- At most sixteen return addresses (10_state R27). -/
  stackDepth : s.stack.length ≤ Sys2Proof.Machine.stackDepth
  /-- Every return address was a `pc` after a fetch: at most `0x1000` (10_state R24). -/
  stackEntries : ∀ a ∈ s.stack, a.toNat ≤ 0x1000
  /-- `pc` never exceeds `0x10FE` (10_state R24). -/
  pcBound : s.pc.toNat ≤ 0x10FE
  /-- Under the updated behaviour `i` never exceeds `0xFFF` (10_state R26). -/
  indexBound : s.cfg.isNewChip8 = true → s.i.toNat ≤ lastAddress
  /-- A fault record and the state say what the cause's rule says, and `pc` holds the address the faulting
  instruction was fetched from (10_state R36, 60_exceptions R207, R211; decision D4, log entry 20). -/
  faultRecord : ∀ r, s.status = .faulted r → r.consistent s ∧ s.pc = r.atPc

/-- `t` can be reached from `s` by steps of the machine that each answer a next state. -/
inductive Reaches : State → State → Prop where
  | refl (s : State) : Reaches s s
  | tail {s t u : State} (h : Reaches s t) (hu : step t = .next u) : Reaches s u

/-- The sprite's pixel at a cell of the screen: whether the cell lies under the sprite of `n` rows whose
left upper corner is at column `x0` and row `y0`, on a bit that is 1 (42_display R141, R144). -/
def spriteAt (x0 y0 n : Nat) (byteOf : Nat → Byte) (row : Fin 32) (col : Fin 64) : Bool :=
  decide (y0 ≤ row.val ∧ row.val < y0 + n ∧ x0 ≤ col.val ∧ col.val < x0 + 8)
    && spriteBit (byteOf (row.val - y0)) (col.val - x0)

end Sys2Proof.Machine

namespace Sys2Proof

/-- Which general registers an instruction may write, under each setting of `is_new_chip8`: its
destination (10_state R22) and, for the forms that write it as a side effect, `vF` (R21). -/
def Instr.mayWrite (isNewChip8 : Bool) (i : Instr) (r : Nibble) : Bool :=
  match i with
  | .setRegister x _ | .addValueToRegister x _ | .set x _ | .or x _ | .and x _ | .xor x _
  | .randomAnd x _ | .getDelayTimer x | .getKey x => r == x
  | .add x _ | .sub x _ | .rShift x _ | .rSub x _ | .lShift x _ => r == x || r == 0xF#4
  | .draw _ _ _ => r == 0xF#4
  | .addToIndex _ => isNewChip8 && r == 0xF#4
  | .loadRegistersFromMemory x => decide (r.toNat ≤ x.toNat)
  | .clearScreen | .returnFromProcedure | .jump _ | .jumpAndLink _ | .skipIfEqualImm _ _
  | .skipIfNotEqualImm _ _ | .skipIfEqualReg _ _ | .skipIfNotEqualReg _ _ | .setIndex _
  | .jumpWithOffset _ _ | .skipIfKeyPressed _ | .skipIfKeyNotPressed _ | .setDelayTimer _
  | .setSoundTimer _ | .setIndexToFontCharacter _ | .doBCDConversion _
  | .storeRegistersToMemory _ | .unsupported _ => false

/-- The six instructions whose behaviour `is_new_chip8` selects (00_scope R5). -/
def Instr.quirk : Instr → Bool
  | .rShift _ _ | .lShift _ _ | .jumpWithOffset _ _ | .addToIndex _ | .storeRegistersToMemory _
  | .loadRegistersFromMemory _ => true
  | .clearScreen | .returnFromProcedure | .jump _ | .jumpAndLink _ | .skipIfEqualImm _ _
  | .skipIfNotEqualImm _ _ | .skipIfEqualReg _ _ | .setRegister _ _ | .addValueToRegister _ _
  | .set _ _ | .or _ _ | .and _ _ | .xor _ _ | .add _ _ | .sub _ _ | .rSub _ _
  | .skipIfNotEqualReg _ _ | .setIndex _ | .randomAnd _ _ | .draw _ _ _ | .skipIfKeyPressed _
  | .skipIfKeyNotPressed _ | .getDelayTimer _ | .getKey _ | .setDelayTimer _ | .setSoundTimer _
  | .setIndexToFontCharacter _ | .doBCDConversion _ | .unsupported _ => false

end Sys2Proof

namespace Sys2Proof.Machine

/-- The one fault an instruction can raise, when it raises it, and what the record's `info` holds
(60_exceptions R201 to R205, R207, R209). Data addresses: the run of `n` bytes from `i` on leaves memory
when `i + n > 0x1000`, and the lowest offending address is `max(i, 0x1000)`. -/
def faultWhen (s : State) (i : Instr) : Option (FaultCause × Option Word) :=
  let run (n : Nat) : Option (FaultCause × Option Word) :=
    if 0 < n ∧ 0x1000 < s.i.toNat + n then
      some (.memoryOutOfBounds, some (BitVec.ofNat 16 (max s.i.toNat 0x1000)))
    else none
  match i with
  | .jumpAndLink _ => if 16 ≤ s.stack.length then some (.stackOverflow, none) else none
  | .returnFromProcedure => if s.stack.length = 0 then some (.stackUnderflow, none) else none
  | .draw _ y n => run (min n.toNat (32 - (s.reg y).toNat))
  | .doBCDConversion _ => run 3
  | .storeRegistersToMemory x | .loadRegistersFromMemory x => run (x.toNat + 1)
  | .unsupported w => if s.cfg.haltOnInvalid then some (.invalidOpcode, some w) else none
  | .clearScreen | .jump _ | .skipIfEqualImm _ _ | .skipIfNotEqualImm _ _ | .skipIfEqualReg _ _
  | .setRegister _ _ | .addValueToRegister _ _ | .set _ _ | .or _ _ | .and _ _ | .xor _ _
  | .add _ _ | .sub _ _ | .rShift _ _ | .rSub _ _ | .lShift _ _ | .skipIfNotEqualReg _ _
  | .setIndex _ | .jumpWithOffset _ _ | .randomAnd _ _ | .skipIfKeyPressed _
  | .skipIfKeyNotPressed _ | .getDelayTimer _ | .getKey _ | .setDelayTimer _ | .setSoundTimer _
  | .addToIndex _ | .setIndexToFontCharacter _ => none

end Sys2Proof.Machine
end

