-- ==== Sys2Proof/Certificates/Slice0/Obligations.lean ====
section
/-! DEFINITION. The statements about the machine, for the provers. Each says which rule of spec/ it
formalises, or, where the spec itself says that it decided or inferred a point, names that decision.

How the frames read. `t = { s with v := t.v }` says that every field of the state but `v` is in `t` as
it was in `s`: the program counter, the index register, the call stack, memory as data (so every byte of
it reads as before), the frame buffer, both timers, the latch and queue, the status, the configuration,
the input lines and the schedule. On entry to `exec` the field `pc` holds `a + 2`, the address of the
word after the instruction (10_state R23). -/

open Sys2Proof Sys2Proof.Machine

/-! ### Encoding -/

/-- Decoding the two bytes of an encoded well-formed instruction, high byte first, gives it back, for
every operand of every one of the 35 forms (30_encoding R70, R71, R75; the numerals are the spec's from
general knowledge, log entry 9). -/
def Obligations.EncodeThenDecodeIsIdentity : Prop :=
  ∀ (i : Instr) (rest : List Byte), i.wellFormed = true →
    decode (encode i) = i
      ∧ decodeBytes (highByte (encode i) :: lowByte (encode i) :: rest) = .ok (i, rest)

/-- Encoding a decoded word gives the word back, but that the low nibble of `5xy_` and `9xy_`, which
the decoder does not examine (30_encoding R78, D13, log entry 10), comes back 0. The numerals are presumed
by the spec itself (G1, log entry 9). -/
def Obligations.DecodeThenEncodeDropsOnlyTheIgnoredNibble : Prop :=
  ∀ w : Word, encode (decode w)
    = if fieldOp w = 0x5#4 ∨ fieldOp w = 0x9#4 then w &&& 0xFFF0#16 else w

/-- The decoder only answers instructions of the hardware: JumpWithOffset with its two operands in
agreement (30_encoding R79), Unsupported with one of the words of R76. The numerals are presumed by the spec
itself (G1, log entry 9); which terms are well formed is log entry 30. -/
def Obligations.DecodedInstructionsAreWellFormed : Prop :=
  ∀ w : Word, (decode w).wellFormed = true

/-- The words that decode to Unsupported are exactly the four groups that 30_encoding R76 lists, and
Unsupported carries the word itself. The numerals are presumed by the spec itself (G1, log entry 9), and
that no word of the groups 5 and 9 is among them is its decision D13 (log entry 10). -/
def Obligations.UnsupportedWordsAreTheFourGroups : Prop :=
  ∀ w : Word,
    ((∃ u, decode w = .unsupported u) ↔ decode w = .unsupported w)
      ∧ (decode w = .unsupported w ↔
          (fieldOp w = 0x0#4 ∧ w ≠ 0x00E0#16 ∧ w ≠ 0x00EE#16)
            ∨ (fieldOp w = 0x8#4
                ∧ fieldN w ∈ [0x8#4, 0x9#4, 0xA#4, 0xB#4, 0xC#4, 0xD#4, 0xF#4])
            ∨ (fieldOp w = 0xE#4 ∧ fieldKK w ∉ [0x9E#8, 0xA1#8])
            ∨ (fieldOp w = 0xF#4 ∧ fieldKK w ∉ [0x07#8, 0x0A#8, 0x15#8, 0x18#8, 0x1E#8, 0x29#8,
                0x33#8, 0x55#8, 0x65#8]))

/-- The opcode map as match and mask (30_encoding R74): a word that is not Unsupported selects exactly
one of the 34 rows, the one its instruction is listed in, and an Unsupported word selects none. The numerals
are presumed by the spec itself (G1, log entry 9); that the masks of `5xy_` and `9xy_` leave the low nibble
out is its decision D13 (log entry 10). -/
def Obligations.EachWordSelectsExactlyItsRow : Prop :=
  ∀ w : Word,
    (decode w ≠ .unsupported w →
      (decode w).row ∈ formTable ∧ ∀ r ∈ formTable, (r.selects w = true ↔ r = (decode w).row))
    ∧ (decode w = .unsupported w → ∀ r ∈ formTable, r.selects w = false)

/-- Words of every family, written out from the vectors of 95_test_vectors 1.1 and 2.1. Only those of 00E0,
00EE, 6xkk, 7xkk, ExA1 and the Unsupported word 0000 rest on the source; the others' numerals are presumed by
the spec itself (G1, log entry 9), and that 512F is a SkipIfEqualReg, its low nibble ignored, is its decision
D13 (log entry 10). -/
def Obligations.SpecWordsDecodeAsListed : Prop :=
  decode 0x00E0#16 = .clearScreen ∧ decode 0x00EE#16 = .returnFromProcedure
    ∧ decode 0x6A02#16 = .setRegister 0xA#4 0x02#8
    ∧ decode 0x7A03#16 = .addValueToRegister 0xA#4 0x03#8
    ∧ decode 0x1FFF#16 = .jump 0xFFF#12 ∧ decode 0x512F#16 = .skipIfEqualReg 0x1#4 0x2#4
    ∧ decode 0x8FF7#16 = .rSub 0xF#4 0xF#4 ∧ decode 0xB21A#16 = .jumpWithOffset 0x2#4 0x21A#12
    ∧ decode 0xD125#16 = .draw 0x1#4 0x2#4 0x5#4 ∧ decode 0xEFA1#16 = .skipIfKeyNotPressed 0xF#4
    ∧ decode 0xFF18#16 = .setSoundTimer 0xF#4 ∧ decode 0xFF65#16 = .loadRegistersFromMemory 0xF#4
    ∧ decode 0x0000#16 = .unsupported 0x0000#16 ∧ decode 0x812F#16 = .unsupported 0x812F#16

/-! ### The step, the agents, the host -/

/-- A step is the scheduled move, taken off the schedule, or one cycle of the compute agent when nothing is
scheduled (70_reset_and_hazards R252: any interleaving of the agents' steps; the schedule as data is the
model's choice, log entry 3). -/
def Obligations.StepTakesTheNextScheduledMove : Prop :=
  ∀ s : State,
    (s.schedule = [] → step s = perform .cycle s)
    ∧ (∀ m rest, s.schedule = m :: rest → step s = perform m { s with schedule := rest })

/-- A STEP RUNS THE DECODED INSTRUCTION. When the compute agent is next to move, the run goes on and
both input lines are low, the step is `exec` of the instruction that the big-endian word at `pc`
decodes to, on the state whose queue has been drained into the latch and whose `pc` has advanced by 2
(70_reset_and_hazards R250, steps 2 to 6; that `pc` advances before execute is the spec's own inference
there; the schedule is the model's, log entry 3, and so are the input lines as levels, log entry 21). -/
def Obligations.StepRunsTheDecodedInstruction : Prop :=
  ∀ (s : State) (i : Instr) (rest : List Move),
    (s.schedule = [] ∧ rest = [] ∨ s.schedule = .cycle :: rest) →
    s.status = .running → s.stop = false → s.queueDisconnected = false → s.pc.toNat ≤ 0xFFE →
    decode (wordOfBytes (s.byteAt s.pc.toNat) (s.byteAt (s.pc.toNat + 1))) = i →
    step s = exec i { s with
      schedule := rest
      keys := s.keyQueue.foldl applyKeyEvent s.keys
      keyQueue := []
      pc := s.pc + 2#16 }

/-- The checks of a cycle before execute, in the order of 60_exceptions R209: stop (D2), queue
disconnected with no event applied (R206, D21), fetch out of bounds with the drain kept (R204, R211,
D4). Each changes nothing else. The three decisions are the spec's (log entries 21, 22, 20). -/
def Obligations.CycleChecksStopThenQueueThenFetch : Prop :=
  ∀ s : State, s.status = .running →
    (s.stop = true → perform .cycle s = .next { s with status := .stopped })
    ∧ (s.stop = false → s.queueDisconnected = true →
        perform .cycle s = .next { s with
          status := .faulted ⟨.keyQueueDisconnected, none, s.pc, none⟩ })
    ∧ (s.stop = false → s.queueDisconnected = false → 0xFFF ≤ s.pc.toNat →
        perform .cycle s = .next { s with
          keys := s.keyQueue.foldl applyKeyEvent s.keys
          keyQueue := []
          status := .faulted ⟨.fetchOutOfBounds, some s.pc, s.pc, none⟩ })

/-- Once the run has ended, by `Stopped` or `Faulted`, no step of any agent but a reset changes the
status, the program counter, a register, the index register, the stack, memory, the frame buffer, the
latch or the configuration (10_state R35, 60_exceptions R210, R212; that the other agents go on is the
spec's decision D19, log entry 26). -/
def Obligations.EndedRunChangesNothingUntilReset : Prop :=
  ∀ s t : State, s.ended → step s = .next t →
    (∀ cfg rom, s.schedule.head? ≠ some (.boot cfg rom)) →
    t.status = s.status ∧ t.pc = s.pc ∧ t.v = s.v ∧ t.i = s.i ∧ t.stack = s.stack ∧ t.mem = s.mem
      ∧ t.fb = s.fb ∧ t.keys = s.keys ∧ t.cfg = s.cfg

/-- The drain: the queue is empty afterwards, and each key of the latch shows its most recently observed
state, that of the last queued event for it, or the old one (10_state R33). -/
def Obligations.DrainLeavesTheMostRecentKeyState : Prop :=
  ∀ (s : State) (k : Nibble),
    s.drain.keyQueue = []
      ∧ s.drain.keys.getLsbD k.toNat
        = ((s.keyQueue.filter (fun e => e.key == k)).getLast?.map KeyEvent.down).getD
            (s.keys.getLsbD k.toNat)

/-- The tick (60_exceptions R221), taken while the timer agent runs: both counters one lower, floored at
zero, and nothing else. -/
def Obligations.TickLowersBothCountersAndNothingElse : Prop :=
  ∀ s : State, s.timerRunning = true →
    perform .tick s = .next s.tick
      ∧ s.tick = { s with delayTimer := s.tick.delayTimer, soundTimer := s.tick.soundTimer }
      ∧ s.tick.delayTimer.toNat = (if 0 < s.delayTimer.toNat then s.delayTimer.toNat - 1 else 0)
      ∧ s.tick.soundTimer.toNat = (if 0 < s.soundTimer.toNat then s.soundTimer.toNat - 1 else 0)

/-- The countdown law (60_exceptions R223): after `n` ticks a counter that held `N` holds
`max(N - n, 0)`, and `sound_active` is true exactly while the sound counter is non-zero. -/
def Obligations.CountdownHoldsMaxOfDifferenceAndZero : Prop :=
  ∀ (n : Nat) (s t : State), s.timerRunning = true → t = State.tick^[n] s →
    t = { s with delayTimer := t.delayTimer, soundTimer := t.soundTimer }
      ∧ (t.delayTimer.toNat : Int) = max ((s.delayTimer.toNat : Int) - n) 0
      ∧ (t.soundTimer.toNat : Int) = max ((s.soundTimer.toNat : Int) - n) 0
      ∧ (t.soundActive = true ↔ n < s.soundTimer.toNat)

/-- The timer agent's bit (10_state R37): true from reset; no step but `shutdown` makes it false, and
`shutdown` changes nothing else, nor anything at all when it is false already; no step but a reset makes it
true again; and while it is false a tick has no effect. -/
def Obligations.ShutdownEndsTickingUntilReset : Prop :=
  State.reset.timerRunning = true
  ∧ ∀ s : State,
      (perform .shutdown s = .next { s with timerRunning := false })
      ∧ (s.timerRunning = false → perform .shutdown s = .next s)
      ∧ (s.timerRunning = false → perform .tick s = .next s)
      ∧ (∀ cfg, (s.resetInput cfg).timerRunning = true)
      ∧ ∀ (m : Move) (t : State), perform m s = .next t → (∀ cfg rom, m ≠ .boot cfg rom) →
          m ≠ .shutdown → t.timerRunning = s.timerRunning

/-- The host's inputs change their own field and nothing else: a key event joins the queue at its end
and not the latch (00_scope R10), a level goes to its input line (R13; the lines as levels are log
entry 21). -/
def Obligations.HostInputsChangeOneField : Prop :=
  ∀ (s : State) (e : KeyEvent) (level : Bool),
    perform (.keyEvent e) s = .next { s with keyQueue := s.keyQueue ++ [e] }
    ∧ perform (.setStop level) s = .next { s with stop := level }
    ∧ perform (.setQueueDisconnected level) s = .next { s with queueDisconnected := level }

/-- The entry point (10_state R40): whatever the state was, after the reset input `pc` is `0x0200`, and with
an image loaded the first word fetched is its first two bytes. -/
def Obligations.ResetEntersAtTheFirstImageBytes : Prop :=
  ∀ (s : State) (cfg : Cfg),
    State.reset.pc = 0x0200#16 ∧ (s.resetInput cfg).pc = 0x0200#16
    ∧ ∀ (hi lo : Byte) (more : List Byte), (hi :: lo :: more).length ≤ 3584 →
        ((s.resetInput cfg).romLoad (hi :: lo :: more)).pc = 0x0200#16
        ∧ ((s.resetInput cfg).romLoad (hi :: lo :: more)).fetch = some (wordOfBytes hi lo)

/-- Memory after boot (10_state R41, 20_memory R57): every byte is zero, the font's, the image's or zero, by
its address. Reset and load as one move is the model's choice (log entry 24), and the font's bytes are
presumed by the spec itself (G2, log entry 8). -/
def Obligations.BootLeavesTheMemoryMap : Prop :=
  ∀ (s : State) (cfg : Cfg) (rom : List Byte), rom.length ≤ 3584 →
    ∃ t, perform (.boot cfg rom) s = .next t
      ∧ fontTable.length = 80
      ∧ (∀ a, a ≤ 0x04F → t.byteAt a = 0x00#8)
      ∧ (∀ k (hk : k < fontTable.length), t.byteAt (0x050 + k) = fontTable[k])
      ∧ (∀ a, 0x0A0 ≤ a → a ≤ 0x1FF → t.byteAt a = 0x00#8)
      ∧ (∀ k (hk : k < rom.length), t.byteAt (0x200 + k) = rom[k])
      ∧ (∀ a, 0x200 + rom.length ≤ a → a ≤ 0xFFF → t.byteAt a = 0x00#8)

/-- After boot, the rest of the state: stack empty, status Running, the timer agent running, the
configuration the sampled one (10_state R42, R43); `v`, `i`, `fb`, the timers, the latch and the queue
zero by R42's decision D3 (log entry 6). What the model keeps across a reset (the input lines, the
count of random draws, the schedule) is its own choice (log entries 3, 5, 21). An image of more than 3584
bytes has no meaning and faults (D20, log entry 24). -/
def Obligations.BootClearsTheRestOfTheState : Prop :=
  ∀ (s : State) (cfg : Cfg) (rom : List Byte),
    (rom.length ≤ 3584 → ∃ t, perform (.boot cfg rom) s = .next t
      ∧ t.stack = [] ∧ t.status = .running ∧ t.timerRunning = true ∧ t.cfg = cfg
      ∧ (∀ r, t.reg r = 0x00#8) ∧ t.i = 0x0000#16 ∧ (∀ r c, t.fb.pixel r c = false)
      ∧ t.delayTimer = 0x00#8 ∧ t.soundTimer = 0x00#8 ∧ t.keys = 0x0000#16 ∧ t.keyQueue = []
      ∧ t.stop = s.stop ∧ t.queueDisconnected = s.queueDisconnected ∧ t.draws = s.draws
      ∧ t.schedule = s.schedule)
    ∧ (3584 < rom.length → perform (.boot cfg rom) s = .fault (.romImageTooLong rom.length))

/-- The state after reset with nothing loaded: the values 10_state R40 to R42 give (the zeros of `v`,
`i`, `fb`, the timers, the latch and the queue by decision D3, log entry 6), the font, whose bytes the spec
itself presumes (G2, log entry 8), and the configuration that the model names (log entry 4). -/
def Obligations.ResetStateHoldsTheListedValues : Prop :=
  State.reset.pc = 0x0200#16 ∧ State.reset.stack = [] ∧ State.reset.status = .running
    ∧ State.reset.timerRunning = true ∧ (∀ r, State.reset.reg r = 0x00#8)
    ∧ State.reset.i = 0x0000#16 ∧ (∀ r c, State.reset.fb.pixel r c = false)
    ∧ State.reset.delayTimer = 0x00#8 ∧ State.reset.soundTimer = 0x00#8
    ∧ State.reset.keys = 0x0000#16 ∧ State.reset.keyQueue = []
    ∧ (∀ a, a < 0x050 ∨ 0x0A0 ≤ a → State.reset.byteAt a = 0x00#8)
    ∧ (∀ k (hk : k < fontTable.length), State.reset.byteAt (0x050 + k) = fontTable[k])
    ∧ State.reset.cfg = ⟨false, false⟩

/-! ### Invariants and whole-machine rules -/

/-- Every step of every agent keeps the invariant. Its clauses and where each is from: at most sixteen
return addresses (10_state R27); each at most `0x1000`, `pc` at most `0x10FE` (R24) and `i` at most `0xFFF`
under the updated behaviour (R26), which are bounds that the spec itself derives; memory in its canonical
form inside 4096 bytes, where the size is 20_memory R50's and the canonical form is the MODEL's
representation (DESIGN CHOICE, log entry 7); and a fault record as its cause's rule says with `pc` at the
faulting instruction (R36, 60_exceptions R201 to R207, R211): its `info`, its word and the condition that
raised it, which is the spec's own choice, decision D4 (log entry 20), with the causes of decisions D5 and
D6 and the skipped rows of D27 (log entries 11, 12); the words' numerals are presumed (G1, log entry 9). -/
def Obligations.EveryStepKeepsTheInvariant : Prop :=
  ∀ s t : State, s.Inv → step s = .next t → t.Inv

/-- The invariant holds of `State.reset`, with nothing loaded; the statement is about that one state. It
rests on values that the source does not state: the configuration is the model's (legacy, log entry 4), so
that the clause on `i` is empty there; `i` is zero by the spec's decision D3 (log entry 6); memory is the
empty list because of the model's representation (log entry 7). The empty stack and the `pc` are stated
(10_state R40, R42), and the status is Running (R42), so that the clause on the fault record (decision D4,
log entry 20) is empty. -/
def Obligations.InvariantHoldsAtReset : Prop := State.reset.Inv

/-- The configuration is set from outside at a reset and held: a reset takes the sampled one, and no other
step of any agent changes it (00_scope R5, 10_state R34, R43; reset and load as one boot move is the model's
choice, log entry 24, and so is the schedule, log entry 3). -/
def Obligations.ConfigurationChangesOnlyAtReset : Prop :=
  ∀ s t : State, step s = .next t →
    (∀ cfg rom, s.schedule.head? = some (.boot cfg rom) → t.cfg = cfg)
    ∧ ((∀ cfg rom, s.schedule.head? ≠ some (.boot cfg rom)) → t.cfg = s.cfg)

/-- Every instruction of the opcode table answers a next state, in every state: none is refused and none
stops the machine with a fault of the model (30_encoding R74, 60_exceptions R210; that the spec's own
faults are next states is log entry 1). -/
def Obligations.EveryInstructionAnswersANextState : Prop :=
  ∀ (i : Instr) (s : State), ∃ t, exec i s = .next t

/-- Which instruction faults, when, and what a fault leaves (60_exceptions R201 to R205, R207, R209 to
R211): no fault where none is listed; otherwise the listed cause and information, the word and the
address of the instruction in the record, `pc` back at the instruction, and every other field as it was.
Precision and the record, StackOverflow and MemoryOutOfBounds are the spec's decisions D4, D5, D6, and that a
skipped sprite row cannot fault is D27 (log entries 20, 11, 12); the word's numerals are presumed (G1, log
entry 9). -/
def Obligations.FaultsAreTheListedOnesAndPrecise : Prop :=
  ∀ (i : Instr) (s t : State), s.status = .running → exec i s = .next t →
    match faultWhen s i with
    | none => t.status = .running
    | some (cause, info) => t = { s with
        pc := s.pc - 2#16
        status := .faulted ⟨cause, info, s.pc - 2#16, some (encode i)⟩ }

/-- The frame buffer is written only by ClearScreen and Draw (10_state R32). -/
def Obligations.OnlyClearAndDrawWriteTheFrameBuffer : Prop :=
  ∀ (i : Instr) (s t : State), exec i s = .next t →
    i ≠ .clearScreen → (∀ x y n, i ≠ .draw x y n) → t.fb = s.fb

/-- Memory is written only by DoBCDConversion, at most at `i` to `i + 2`, and StoreRegistersToMemory, at
most at `i` to `i + x` (10_state R31, 45_index_memory R173, R174): every other byte reads as before. -/
def Obligations.OnlyBcdAndStoreWriteMemory : Prop :=
  ∀ (i : Instr) (s t : State), exec i s = .next t →
    ((∀ x, i ≠ .doBCDConversion x) → (∀ x, i ≠ .storeRegistersToMemory x) → t.mem = s.mem)
    ∧ (∀ x, i = .doBCDConversion x → ∀ a, a < s.i.toNat ∨ s.i.toNat + 2 < a →
        t.byteAt a = s.byteAt a)
    ∧ (∀ x, i = .storeRegistersToMemory x → ∀ a, a < s.i.toNat ∨ s.i.toNat + x.toNat < a →
        t.byteAt a = s.byteAt a)

/-- The call stack is changed only by JumpAndLink, by at most one entry more, and by
ReturnFromProcedure, by at most one entry less (10_state R27 to R29, its summary table). -/
def Obligations.OnlyCallAndReturnChangeTheStack : Prop :=
  ∀ (i : Instr) (s t : State), exec i s = .next t →
    t.stack = s.stack
      ∨ (∃ nnn, i = .jumpAndLink nnn) ∧ t.stack = s.stack ++ [s.pc]
      ∨ i = .returnFromProcedure ∧ t.stack = s.stack.dropLast

/-- The index register is written only by SetIndex, AddToIndex, SetIndexToFontCharacter and, under the
legacy behaviour, the two block transfers (10_state R26). -/
def Obligations.OnlyItsWritersChangeTheIndexRegister : Prop :=
  ∀ (i : Instr) (s t : State), exec i s = .next t →
    t.i = s.i ∨ (∃ nnn, i = .setIndex nnn) ∨ (∃ x, i = .addToIndex x)
      ∨ (∃ x, i = .setIndexToFontCharacter x)
      ∨ (s.cfg.isNewChip8 = false
          ∧ ∃ x, i = .storeRegistersToMemory x ∨ i = .loadRegistersFromMemory x)

/-- Each timer is written by its own setter and by no other instruction (10_state R30). -/
def Obligations.OnlyTheirSettersWriteTheTimers : Prop :=
  ∀ (i : Instr) (s t : State), exec i s = .next t →
    (t.delayTimer = s.delayTimer ∨ ∃ x, i = .setDelayTimer x)
      ∧ (t.soundTimer = s.soundTimer ∨ ∃ x, i = .setSoundTimer x)

/-- A general register changes only where 10_state R22 lists it as a destination, and `vF` besides only
by the side effects that R21 lists. -/
def Obligations.RegistersChangeOnlyWhereListed : Prop :=
  ∀ (i : Instr) (s t : State) (r : Nibble), exec i s = .next t →
    i.mayWrite s.cfg.isNewChip8 r = false → t.reg r = s.reg r

/-- No instruction writes the latch (only the drain step does, 10_state R33), the queue, the timer
agent's bit, the configuration (R34), an input line or the schedule; and none but RandomAnd draws a
random byte (00_scope R12; `draws` and `schedule` are the model's own, log entries 3 and 5). -/
def Obligations.NoInstructionTouchesLatchQueueOrConfiguration : Prop :=
  ∀ (i : Instr) (s t : State), exec i s = .next t →
    t.keys = s.keys ∧ t.keyQueue = s.keyQueue ∧ t.timerRunning = s.timerRunning ∧ t.cfg = s.cfg
      ∧ t.stop = s.stop ∧ t.queueDisconnected = s.queueDisconnected ∧ t.schedule = s.schedule
      ∧ ((∀ x kk, i ≠ .randomAnd x kk) → t.draws = s.draws)

/-- `is_new_chip8` selects the behaviour of six instructions and of no other (00_scope R5): every other
instruction does the same under both settings. -/
def Obligations.QuirkFlagTouchesSixInstructions : Prop :=
  ∀ (i : Instr) (s t : State) (b : Bool), i.quirk = false → exec i s = .next t →
    exec i { s with cfg := { s.cfg with isNewChip8 := b } }
      = .next { t with cfg := { t.cfg with isNewChip8 := b } }

/-- Memory in canonical form is determined by what its addresses read as (20_memory R50, R56; the
representation is the model's, log entry 7). -/
def Obligations.MemoriesThatReadAlikeAreEqual : Prop :=
  ∀ m m' : Memory, m.wf → m'.wf → (∀ a, m.read a = m'.read a) → m = m'

/-- Self-modifying code (20_memory R62): two bytes that StoreRegistersToMemory stored are the word that
a fetch from their address sees next, with nothing in between. That the address may be odd is decision D15
(log entry 18). -/
def Obligations.StoredBytesAreFetchedAtOnce : Prop :=
  ∀ (x : Nibble) (s t : State) (a : Word), exec (.storeRegistersToMemory x) s = .next t →
    s.i.toNat + x.toNat ≤ 0xFFF → s.i.toNat ≤ a.toNat → a.toNat + 1 ≤ s.i.toNat + x.toNat →
    { t with pc := a }.fetch
      = some (wordOfBytes (s.reg (BitVec.ofNat 4 (a.toNat - s.i.toNat)))
          (s.reg (BitVec.ofNat 4 (a.toNat - s.i.toNat + 1))))

/-! ### Control transfer -/

/-- Jump (40_control_flow R100): `pc` becomes `nnn`, and nothing else changes. -/
def Obligations.JumpSetsTheProgramCounter : Prop :=
  ∀ (nnn : Addr12) (s : State),
    ∃ t, exec (.jump nnn) s = .next t ∧ t = { s with pc := t.pc } ∧ t.pc.toNat = nnn.toNat

/-- JumpAndLink (40_control_flow R101): with room on the stack, the address after the call is pushed and
`pc` becomes `nnn`. With sixteen entries it takes StackOverflow, which is the spec's decision D5 (10_state
R28, 60_exceptions R203, log entry 11); the fault's record, `pc` back at the instruction and everything else
as before are its decision D4 (R207, R211, log entry 20), and the record's word has a presumed numeral (G1,
log entry 9). -/
def Obligations.CallPushesTheAddressAfterIt : Prop :=
  ∀ (nnn : Addr12) (s : State),
    (s.stack.length < 16 → ∃ t, exec (.jumpAndLink nnn) s = .next t
      ∧ t = { s with pc := t.pc, stack := s.stack ++ [s.pc] } ∧ t.pc.toNat = nnn.toNat)
    ∧ (16 ≤ s.stack.length → exec (.jumpAndLink nnn) s = .next { s with
        pc := s.pc - 2#16
        status := .faulted ⟨.stackOverflow, none, s.pc - 2#16, some (encode (.jumpAndLink nnn))⟩ })

/-- ReturnFromProcedure (40_control_flow R102): the newest entry goes to `pc` as it is and leaves the
stack; on an empty stack, StackUnderflow (60_exceptions R202), with its record, `pc` back at the instruction
and everything else as before by the spec's decision D4 (R207, R211, log entry 20). -/
def Obligations.ReturnPopsTheNewestAddress : Prop :=
  ∀ s : State,
    (∀ rest a, s.stack = rest ++ [a] →
      exec .returnFromProcedure s = .next { s with pc := a, stack := rest })
    ∧ (s.stack = [] → exec .returnFromProcedure s = .next { s with
        pc := s.pc - 2#16
        status := .faulted ⟨.stackUnderflow, none, s.pc - 2#16, some 0x00EE#16⟩ })

/-- The four comparing skips (40_control_flow R103 to R106): fetched at `a`, the next instruction is at
`a + 4` when the comparison holds and at `a + 2` otherwise, and nothing else changes. -/
def Obligations.SkipsCompareAndMoveByFour : Prop :=
  ∀ (x y : Nibble) (kk : Byte) (a : Word) (s : State), s.pc = a + 2#16 →
    (∃ t, exec (.skipIfEqualImm x kk) s = .next t ∧ t = { s with pc := t.pc }
      ∧ t.pc = if s.reg x = kk then a + 4#16 else a + 2#16)
    ∧ (∃ t, exec (.skipIfNotEqualImm x kk) s = .next t ∧ t = { s with pc := t.pc }
      ∧ t.pc = if s.reg x ≠ kk then a + 4#16 else a + 2#16)
    ∧ (∃ t, exec (.skipIfEqualReg x y) s = .next t ∧ t = { s with pc := t.pc }
      ∧ t.pc = if s.reg x = s.reg y then a + 4#16 else a + 2#16)
    ∧ (∃ t, exec (.skipIfNotEqualReg x y) s = .next t ∧ t = { s with pc := t.pc }
      ∧ t.pc = if s.reg x ≠ s.reg y then a + 4#16 else a + 2#16)

/-- JumpWithOffset (40_control_flow R107): `pc` becomes `nnn` plus `v[x]` under the updated behaviour,
plus `v[0]` under the legacy behaviour, the whole sum (not reduced: decision D28, log entry 19), and
nothing else changes. -/
def Obligations.JumpWithOffsetAddsTheSelectedRegister : Prop :=
  ∀ (x : Nibble) (nnn : Addr12) (s : State),
    ∃ t, exec (.jumpWithOffset x nnn) s = .next t ∧ t = { s with pc := t.pc }
      ∧ t.pc.toNat
        = nnn.toNat + (if s.cfg.isNewChip8 = true then s.reg x else s.reg 0x0#4).toNat

/-! ### Registers and ALU -/

/-- SetRegister and AddValueToRegister (41_register_alu R122, R123): the destination takes the
immediate, or the sum modulo 256; every other register, `vF` included unless it is the destination, and
everything else is unchanged. -/
def Obligations.ImmediateFormsWriteTheirDestinationOnly : Prop :=
  ∀ (x : Nibble) (kk : Byte) (s : State),
    (∃ t, exec (.setRegister x kk) s = .next t ∧ t = { s with v := t.v }
      ∧ t.reg x = kk ∧ ∀ r, r ≠ x → t.reg r = s.reg r)
    ∧ (∃ t, exec (.addValueToRegister x kk) s = .next t ∧ t = { s with v := t.v }
      ∧ (t.reg x).toNat = ((s.reg x).toNat + kk.toNat) % 256
      ∧ ∀ r, r ≠ x → t.reg r = s.reg r)

/-- Set, Or, And, Xor (41_register_alu R124 to R127): bit by bit on the old values; every other register,
`vF` included unless it is the destination, and everything else is unchanged. -/
def Obligations.CopyAndLogicFormsLeaveTheFlag : Prop :=
  ∀ (x y : Nibble) (s : State),
    (∃ t, exec (.set x y) s = .next t ∧ t = { s with v := t.v }
      ∧ t.reg x = s.reg y ∧ ∀ r, r ≠ x → t.reg r = s.reg r)
    ∧ (∃ t, exec (.or x y) s = .next t ∧ t = { s with v := t.v }
      ∧ (∀ b, (t.reg x).getLsbD b = ((s.reg x).getLsbD b || (s.reg y).getLsbD b))
      ∧ ∀ r, r ≠ x → t.reg r = s.reg r)
    ∧ (∃ t, exec (.and x y) s = .next t ∧ t = { s with v := t.v }
      ∧ (∀ b, (t.reg x).getLsbD b = ((s.reg x).getLsbD b && (s.reg y).getLsbD b))
      ∧ ∀ r, r ≠ x → t.reg r = s.reg r)
    ∧ (∃ t, exec (.xor x y) s = .next t ∧ t = { s with v := t.v }
      ∧ (∀ b, (t.reg x).getLsbD b = ((s.reg x).getLsbD b ^^ (s.reg y).getLsbD b))
      ∧ ∀ r, r ≠ x → t.reg r = s.reg r)

/-- Add (41_register_alu R128): `vF` is 1 exactly when the sum of the old values exceeds 255, and the
destination, unless it is `vF`, holds the sum modulo 256; nothing else changes. That `vF` ends as the
flag when it is the destination is the spec's decision D11 (R121, log entry 16). -/
def Obligations.AddWritesTheSumAndThenTheCarry : Prop :=
  ∀ (x y : Nibble) (s : State),
    ∃ t, exec (.add x y) s = .next t ∧ t = { s with v := t.v }
      ∧ (t.reg 0xF#4).toNat = (if 255 < (s.reg x).toNat + (s.reg y).toNat then 1 else 0)
      ∧ (x ≠ 0xF#4 → (t.reg x).toNat = ((s.reg x).toNat + (s.reg y).toNat) % 256)
      ∧ ∀ r, r ≠ x → r ≠ 0xF#4 → t.reg r = s.reg r

/-- Sub and RSub (41_register_alu R129, R132): `vF` is 1 exactly when left is at least right before the
subtraction (no borrow), and the destination `v[x]`, unless it is `vF`, holds the difference modulo 256;
nothing else changes. That `vF` ends as the flag when it is the destination is decision D11 (R121, log
entry 16). -/
def Obligations.SubtractionsWriteTheDifferenceAndThenNoBorrow : Prop :=
  ∀ (x y : Nibble) (s : State),
    (∃ t, exec (.sub x y) s = .next t ∧ t = { s with v := t.v }
      ∧ (t.reg 0xF#4).toNat = (if (s.reg y).toNat ≤ (s.reg x).toNat then 1 else 0)
      ∧ (x ≠ 0xF#4 →
          ((t.reg x).toNat : Int) = ((s.reg x).toNat - (s.reg y).toNat : Int) % 256)
      ∧ ∀ r, r ≠ x → r ≠ 0xF#4 → t.reg r = s.reg r)
    ∧ (∃ t, exec (.rSub x y) s = .next t ∧ t = { s with v := t.v }
      ∧ (t.reg 0xF#4).toNat = (if (s.reg x).toNat ≤ (s.reg y).toNat then 1 else 0)
      ∧ (x ≠ 0xF#4 →
          ((t.reg x).toNat : Int) = ((s.reg y).toNat - (s.reg x).toNat : Int) % 256)
      ∧ ∀ r, r ≠ x → r ≠ 0xF#4 → t.reg r = s.reg r)

/-- RShift and LShift (41_register_alu R130, R131) of the operand `v[x]` (updated) or `v[y]` (legacy) by
one place: the flag is the bit shifted out, and the destination, unless it is `vF`, holds half the
operand rounded down, or twice it modulo 256; nothing else changes. That `vF` ends as the flag when it is
the destination is decision D11 (R121, log entry 16). -/
def Obligations.ShiftsMoveOneBitIntoTheFlag : Prop :=
  ∀ (x y : Nibble) (s : State) (u : Nat),
    u = (if s.cfg.isNewChip8 = true then s.reg x else s.reg y).toNat →
    (∃ t, exec (.rShift x y) s = .next t ∧ t = { s with v := t.v }
      ∧ (t.reg 0xF#4).toNat = u % 2
      ∧ (x ≠ 0xF#4 → (t.reg x).toNat = u / 2)
      ∧ ∀ r, r ≠ x → r ≠ 0xF#4 → t.reg r = s.reg r)
    ∧ (∃ t, exec (.lShift x y) s = .next t ∧ t = { s with v := t.v }
      ∧ (t.reg 0xF#4).toNat = u / 128
      ∧ (x ≠ 0xF#4 → (t.reg x).toNat = 2 * u % 256)
      ∧ ∀ r, r ≠ x → r ≠ 0xF#4 → t.reg r = s.reg r)

/-- RandomAnd (41_register_alu R133): the destination takes a fresh free byte ANDed with `kk`, so every
bit where `kk` has a 0 is 0; no other register changes, and the draw is counted (the free value and its
counter are the model's, D14, log entry 5). It holds for every sequence of random bytes. -/
def Obligations.RandomAndMasksAFreshByte : Prop :=
  ∀ (x : Nibble) (kk : Byte) (s : State),
    ∃ t, exec (.randomAnd x kk) s = .next t ∧ t = { s with v := t.v, draws := s.draws + 1 }
      ∧ (∀ b, (t.reg x).getLsbD b = ((Config.rnd s.draws).getLsbD b && kk.getLsbD b))
      ∧ (kk = 0x00#8 → t.reg x = 0x00#8)
      ∧ ∀ r, r ≠ x → t.reg r = s.reg r

/-! ### Display -/

/-- ClearScreen (42_display R140): every cell of the frame buffer is false; `vF` and everything else is
unchanged. -/
def Obligations.ClearScreenTurnsEveryCellOff : Prop :=
  ∀ s : State, ∃ t, exec .clearScreen s = .next t ∧ t = { s with fb := t.fb }
    ∧ ∀ r c, t.fb.pixel r c = false

/-- Draw (42_display R141): when the rows that lie on the screen lie in memory, every cell takes the
exclusive or with the sprite's pixel there, `vF` is 1 exactly when some set cell lay under a sprite bit
of 1, and nothing else changes. A row below the screen is not read (decision D27, log entry 12); the
origin is not reduced (D12, log entry 17). -/
def Obligations.DrawXorsTheSpriteAndReportsCollision : Prop :=
  ∀ (x y n : Nibble) (s : State),
    (∀ k, k < n.toNat → (s.reg y).toNat + k < 32 → s.i.toNat + k ≤ 0xFFF) →
    ∃ t, exec (.draw x y n) s = .next t ∧ t = { s with v := t.v, fb := t.fb }
      ∧ (∀ r c, t.fb.pixel r c = (s.fb.pixel r c
          ^^ spriteAt (s.reg x).toNat (s.reg y).toNat n.toNat
              (fun k => s.byteAt (s.i.toNat + k)) r c))
      ∧ (t.reg 0xF#4 = 0x01#8 ∨ t.reg 0xF#4 = 0x00#8)
      ∧ (t.reg 0xF#4 = 0x01#8 ↔ ∃ r c, s.fb.pixel r c = true
          ∧ spriteAt (s.reg x).toNat (s.reg y).toNat n.toNat
              (fun k => s.byteAt (s.i.toNat + k)) r c = true)
      ∧ ∀ r, r ≠ 0xF#4 → t.reg r = s.reg r

/-- Drawing the same sprite twice at the same location restores the frame buffer exactly, where neither
position register is `vF` or the first flag equals the old `vF`; and the second Draw reports a collision
exactly when some sprite bit of 1 inside the screen lies on a cell that was false before the first
(42_display R144). -/
def Obligations.DrawingTwiceRestoresTheFrameBuffer : Prop :=
  ∀ (x y n : Nibble) (s t : State),
    (∀ k, k < n.toNat → (s.reg y).toNat + k < 32 → s.i.toNat + k ≤ 0xFFF) →
    exec (.draw x y n) s = .next t →
    (x ≠ 0xF#4 ∧ y ≠ 0xF#4 ∨ t.reg 0xF#4 = s.reg 0xF#4) →
    ∃ u, exec (.draw x y n) t = .next u ∧ u.fb = s.fb
      ∧ (u.reg 0xF#4 = 0x01#8 ↔ ∃ r c, s.fb.pixel r c = false
          ∧ spriteAt (s.reg x).toNat (s.reg y).toNat n.toNat
              (fun k => s.byteAt (s.i.toNat + k)) r c = true)

/-- A sprite whose origin is past the right edge (with its rows in memory), or past the bottom edge, or
of height 0 (with nothing read, wherever `i` points) changes no pixel and clears `vF` (42_display R142,
R143; that the origin is not reduced is decision D12, log entry 17, that a skipped row is not read D27, log
entry 12). -/
def Obligations.DrawOffTheScreenChangesNoPixel : Prop :=
  ∀ (x y n : Nibble) (s : State),
    (32 ≤ (s.reg y).toNat ∨ n.toNat = 0
      ∨ (64 ≤ (s.reg x).toNat
          ∧ ∀ k, k < n.toNat → (s.reg y).toNat + k < 32 → s.i.toNat + k ≤ 0xFFF)) →
    ∃ t, exec (.draw x y n) s = .next t ∧ t = { s with v := t.v }
      ∧ t.reg 0xF#4 = 0x00#8 ∧ ∀ r, r ≠ 0xF#4 → t.reg r = s.reg r

/-! ### Keyboard and timers -/

/-- The two key skips (43_keyboard R150, R151): the key is named by the register's value; a value above
`0xF` names no key and counts as up (decision D10, log entry 15). Nothing but `pc` changes. -/
def Obligations.KeySkipsTestTheNamedKey : Prop :=
  ∀ (x : Nibble) (s : State) (pressed : Prop),
    (pressed ↔ (s.reg x).toNat ≤ 0xF ∧ s.keys.getLsbD (s.reg x).toNat = true) →
    (∃ t, exec (.skipIfKeyPressed x) s = .next t ∧ t = { s with pc := t.pc }
      ∧ (pressed → t.pc = s.pc + 2#16) ∧ (¬pressed → t.pc = s.pc))
    ∧ (∃ t, exec (.skipIfKeyNotPressed x) s = .next t ∧ t = { s with pc := t.pc }
      ∧ (¬pressed → t.pc = s.pc + 2#16) ∧ (pressed → t.pc = s.pc))

/-- GetKey (43_keyboard R152): with no key down `pc` goes back by 2 and nothing else changes; otherwise
the destination takes the number of the lowest key down and nothing else changes (level-sensitive,
D29, log entry 27). -/
def Obligations.GetKeyPollsForTheLowestKeyDown : Prop :=
  ∀ (x : Nibble) (s : State),
    (s.keys = 0x0000#16 → exec (.getKey x) s = .next { s with pc := s.pc - 2#16 })
    ∧ (∀ k, k < 16 → s.keys.getLsbD k = true → (∀ j, j < k → s.keys.getLsbD j = false) →
        ∃ t, exec (.getKey x) s = .next t ∧ t = { s with v := t.v } ∧ (t.reg x).toNat = k
          ∧ ∀ r, r ≠ x → t.reg r = s.reg r)

/-- The timer accesses (44_timer_ops R160 to R162): the delay counter into the destination, the register
into the delay counter, the register into the sound counter, which drives `sound_active`; nothing else
changes. -/
def Obligations.TimerInstructionsMoveTheCounters : Prop :=
  ∀ (x : Nibble) (s : State),
    (∃ t, exec (.getDelayTimer x) s = .next t ∧ t = { s with v := t.v }
      ∧ t.reg x = s.delayTimer ∧ ∀ r, r ≠ x → t.reg r = s.reg r)
    ∧ (∃ t, exec (.setDelayTimer x) s = .next t ∧ t = { s with delayTimer := s.reg x })
    ∧ (∃ t, exec (.setSoundTimer x) s = .next t ∧ t = { s with soundTimer := s.reg x }
      ∧ (t.soundActive = true ↔ (s.reg x).toNat ≠ 0))

/-! ### Index register and memory -/

/-- SetIndex (45_index_memory R170): `i` becomes `nnn`, and nothing else changes. -/
def Obligations.SetIndexLoadsTheAddress : Prop :=
  ∀ (nnn : Addr12) (s : State),
    ∃ t, exec (.setIndex nnn) s = .next t ∧ t = { s with i := t.i } ∧ t.i.toNat = nnn.toNat

/-- AddToIndex (45_index_memory R171): updated, the sum modulo `0x1000` and `vF` 1 on overflow past
`0xFFF`, unchanged otherwise (decision D8); legacy, the sum modulo `0x10000` (D7) and no flag. Nothing
else changes. The decisions are the spec's (log entry 13). -/
def Obligations.AddToIndexWrapsAsTheQuirkSays : Prop :=
  ∀ (x : Nibble) (s : State) (sum : Nat), sum = s.i.toNat + (s.reg x).toNat →
    ∃ t, exec (.addToIndex x) s = .next t ∧ t = { s with v := t.v, i := t.i }
      ∧ (∀ r, r ≠ 0xF#4 → t.reg r = s.reg r)
      ∧ (s.cfg.isNewChip8 = true → t.i.toNat = sum % 0x1000
          ∧ t.reg 0xF#4 = if 0xFFF < sum then 0x01#8 else s.reg 0xF#4)
      ∧ (s.cfg.isNewChip8 = false → t.i.toNat = sum % 0x10000 ∧ t.reg 0xF#4 = s.reg 0xF#4)

/-- SetIndexToFontCharacter (45_index_memory R172): `i` becomes `0x50 + 5 * v[x]`, the whole byte used
(decision D9 above `0xF`, log entry 14), and nothing else changes. -/
def Obligations.FontCharacterAddressIsFiveBytesADigit : Prop :=
  ∀ (x : Nibble) (s : State),
    ∃ t, exec (.setIndexToFontCharacter x) s = .next t ∧ t = { s with i := t.i }
      ∧ t.i.toNat = 0x50 + 5 * (s.reg x).toNat

/-- DoBCDConversion (45_index_memory R173), with its three bytes in memory: hundreds, tens and units at
`i`, `i + 1`, `i + 2`; every other byte and everything else is unchanged, `i` included. (Out of memory it
faults, decision D6, log entry 12: see FaultsAreTheListedOnesAndPrecise.) -/
def Obligations.BcdStoresThreeDecimalDigits : Prop :=
  ∀ (x : Nibble) (s : State), s.i.toNat + 2 ≤ 0xFFF →
    ∃ t, exec (.doBCDConversion x) s = .next t ∧ t = { s with mem := t.mem }
      ∧ 100 * (t.byteAt s.i.toNat).toNat + 10 * (t.byteAt (s.i.toNat + 1)).toNat
          + (t.byteAt (s.i.toNat + 2)).toNat = (s.reg x).toNat
      ∧ (t.byteAt (s.i.toNat + 1)).toNat ≤ 9 ∧ (t.byteAt (s.i.toNat + 2)).toNat ≤ 9
      ∧ ∀ a, a < s.i.toNat ∨ s.i.toNat + 2 < a → t.byteAt a = s.byteAt a

/-- StoreRegistersToMemory (45_index_memory R174), with its bytes in memory: `v[0]` to `v[x]` at `i` on,
every other byte unchanged, `i` advanced by `x + 1` under the legacy behaviour and unchanged under the
updated one, and nothing else changes. (Out of memory it faults, decision D6, log entry 12.) -/
def Obligations.StoreCopiesRegistersToMemory : Prop :=
  ∀ (x : Nibble) (s : State), s.i.toNat + x.toNat ≤ 0xFFF →
    ∃ t, exec (.storeRegistersToMemory x) s = .next t ∧ t = { s with mem := t.mem, i := t.i }
      ∧ (∀ r : Nibble, r.toNat ≤ x.toNat → t.byteAt (s.i.toNat + r.toNat) = s.reg r)
      ∧ (∀ a, a < s.i.toNat ∨ s.i.toNat + x.toNat < a → t.byteAt a = s.byteAt a)
      ∧ t.i.toNat = s.i.toNat + (if s.cfg.isNewChip8 = true then 0 else x.toNat + 1)

/-- LoadRegistersFromMemory (45_index_memory R175), with its bytes in memory: `v[0]` to `v[x]` from `i`
on, every other register and all memory unchanged, `i` as for the store, and nothing else changes. (Out
of memory it faults, decision D6, log entry 12.) -/
def Obligations.LoadCopiesMemoryToRegisters : Prop :=
  ∀ (x : Nibble) (s : State), s.i.toNat + x.toNat ≤ 0xFFF →
    ∃ t, exec (.loadRegistersFromMemory x) s = .next t ∧ t = { s with v := t.v, i := t.i }
      ∧ (∀ r : Nibble, r.toNat ≤ x.toNat → t.reg r = s.byteAt (s.i.toNat + r.toNat))
      ∧ (∀ r : Nibble, x.toNat < r.toNat → t.reg r = s.reg r)
      ∧ t.i.toNat = s.i.toNat + (if s.cfg.isNewChip8 = true then 0 else x.toNat + 1)

/-! ### Unsupported -/

/-- Unsupported (46_unsupported R190): with `halt_on_invalid`, InvalidOpcode with the word, at the address
the word was fetched from (the record and its precision are the spec's decision D4, log entry 20); without,
nothing, so that `pc` stays `a + 2` (that `pc` has advanced by then is the spec's own inference, R250). -/
def Obligations.UnsupportedHaltsOrDoesNothing : Prop :=
  ∀ (w a : Word) (s : State), s.pc = a + 2#16 →
    (s.cfg.haltOnInvalid = true → exec (.unsupported w) s = .next { s with
        pc := a
        status := .faulted ⟨.invalidOpcode, some w, a, some w⟩ })
    ∧ (s.cfg.haltOnInvalid = false → exec (.unsupported w) s = .next s)
end

