-- ==== Sys2Proof/Laws/Decode.lean ====
section
/-! SUPPORT. What each field of a packed word reads, and a word as its four nibbles, so that no later
proof unfolds a field or a pack. -/

namespace Sys2Proof

theorem toNat_append_eq {n m : Nat} (a : BitVec n) (b : BitVec m) :
    (a ++ b).toNat = a.toNat * 2 ^ m + b.toNat := by
  rw [BitVec.toNat_append, ← Nat.shiftLeft_add_eq_or_of_lt b.isLt, Nat.shiftLeft_eq]

/-! ### The fields of a word, as numbers -/

theorem fieldOp_toNat (w : Word) : (fieldOp w).toNat = w.toNat / 4096 := by
  have := w.isLt
  simp only [fieldOp, BitVec.extractLsb'_toNat, Nat.shiftRight_eq_div_pow]; omega

theorem fieldX_toNat (w : Word) : (fieldX w).toNat = w.toNat / 256 % 16 := by
  simp [fieldX, BitVec.extractLsb'_toNat, Nat.shiftRight_eq_div_pow]

theorem fieldY_toNat (w : Word) : (fieldY w).toNat = w.toNat / 16 % 16 := by
  simp [fieldY, BitVec.extractLsb'_toNat, Nat.shiftRight_eq_div_pow]

theorem fieldN_toNat (w : Word) : (fieldN w).toNat = w.toNat % 16 := by
  simp [fieldN, BitVec.extractLsb'_toNat]

theorem fieldKK_toNat (w : Word) : (fieldKK w).toNat = w.toNat % 256 := by
  simp [fieldKK, BitVec.extractLsb'_toNat]

theorem fieldNNN_toNat (w : Word) : (fieldNNN w).toNat = w.toNat % 4096 := by
  simp only [fieldNNN, BitVec.extractLsb'_toNat, Nat.shiftRight_eq_div_pow]; omega

/-! ### The packed words, as numbers -/

theorem packNibbles_toNat (op x y n : Nibble) :
    (packNibbles op x y n).toNat = op.toNat * 4096 + x.toNat * 256 + y.toNat * 16 + n.toNat := by
  have h : (packNibbles op x y n).toNat = (op ++ x ++ y ++ n).toNat := rfl
  rw [h, toNat_append_eq, toNat_append_eq, toNat_append_eq]; omega

theorem packByte_toNat (op x : Nibble) (kk : Byte) :
    (packByte op x kk).toNat = op.toNat * 4096 + x.toNat * 256 + kk.toNat := by
  have h : (packByte op x kk).toNat = (op ++ x ++ kk).toNat := rfl
  rw [h, toNat_append_eq, toNat_append_eq]; omega

theorem packAddr_toNat (op : Nibble) (nnn : Addr12) :
    (packAddr op nnn).toNat = op.toNat * 4096 + nnn.toNat := by
  have h : (packAddr op nnn).toNat = (op ++ nnn).toNat := rfl
  rw [h, toNat_append_eq]; norm_num

/-! ### The fields of a packed word -/

@[simp] theorem fieldOp_packNibbles (op x y n : Nibble) : fieldOp (packNibbles op x y n) = op :=
  BitVec.eq_of_toNat_eq (by rw [fieldOp_toNat, packNibbles_toNat]; omega)

@[simp] theorem fieldX_packNibbles (op x y n : Nibble) : fieldX (packNibbles op x y n) = x :=
  BitVec.eq_of_toNat_eq (by rw [fieldX_toNat, packNibbles_toNat]; omega)

@[simp] theorem fieldY_packNibbles (op x y n : Nibble) : fieldY (packNibbles op x y n) = y :=
  BitVec.eq_of_toNat_eq (by rw [fieldY_toNat, packNibbles_toNat]; omega)

@[simp] theorem fieldN_packNibbles (op x y n : Nibble) : fieldN (packNibbles op x y n) = n :=
  BitVec.eq_of_toNat_eq (by rw [fieldN_toNat, packNibbles_toNat]; omega)

@[simp] theorem fieldOp_packByte (op x : Nibble) (kk : Byte) : fieldOp (packByte op x kk) = op :=
  BitVec.eq_of_toNat_eq (by rw [fieldOp_toNat, packByte_toNat]; omega)

@[simp] theorem fieldX_packByte (op x : Nibble) (kk : Byte) : fieldX (packByte op x kk) = x :=
  BitVec.eq_of_toNat_eq (by rw [fieldX_toNat, packByte_toNat]; omega)

@[simp] theorem fieldKK_packByte (op x : Nibble) (kk : Byte) : fieldKK (packByte op x kk) = kk :=
  BitVec.eq_of_toNat_eq (by rw [fieldKK_toNat, packByte_toNat]; omega)

@[simp] theorem fieldOp_packAddr (op : Nibble) (nnn : Addr12) : fieldOp (packAddr op nnn) = op :=
  BitVec.eq_of_toNat_eq (by rw [fieldOp_toNat, packAddr_toNat]; omega)

@[simp] theorem fieldNNN_packAddr (op : Nibble) (nnn : Addr12) :
    fieldNNN (packAddr op nnn) = nnn :=
  BitVec.eq_of_toNat_eq (by rw [fieldNNN_toNat, packAddr_toNat]; omega)

@[simp] theorem fieldX_packAddr (op : Nibble) (nnn : Addr12) :
    fieldX (packAddr op nnn) = nnn.extractLsb' 8 4 :=
  BitVec.eq_of_toNat_eq (by
    rw [fieldX_toNat, packAddr_toNat, BitVec.extractLsb'_toNat, Nat.shiftRight_eq_div_pow]; omega)

/-! ### A word is its fields -/

theorem packNibbles_fields (w : Word) :
    packNibbles (fieldOp w) (fieldX w) (fieldY w) (fieldN w) = w :=
  BitVec.eq_of_toNat_eq (by
    rw [packNibbles_toNat, fieldOp_toNat, fieldX_toNat, fieldY_toNat, fieldN_toNat]; omega)

theorem packByte_fields (w : Word) : packByte (fieldOp w) (fieldX w) (fieldKK w) = w :=
  BitVec.eq_of_toNat_eq (by
    rw [packByte_toNat, fieldOp_toNat, fieldX_toNat, fieldKK_toNat]; omega)

theorem packAddr_fields (w : Word) : packAddr (fieldOp w) (fieldNNN w) = w :=
  BitVec.eq_of_toNat_eq (by rw [packAddr_toNat, fieldOp_toNat, fieldNNN_toNat]; omega)

/-! ### Masks (30_encoding R74) -/

theorem packNibbles_and (a b c d a' b' c' d' : Nibble) :
    packNibbles a b c d &&& packNibbles a' b' c' d'
      = packNibbles (a &&& a') (b &&& b') (c &&& c') (d &&& d') := by
  have h : (a ++ b ++ c ++ d) &&& (a' ++ b' ++ c' ++ d')
      = (a &&& a') ++ (b &&& b') ++ (c &&& c') ++ (d &&& d') := by
    rw [BitVec.and_append, BitVec.and_append, BitVec.and_append]
  exact h

theorem nibble_and_ones (a : Nibble) : a &&& 0xF#4 = a := by revert a; decide

theorem nibble_and_zero (a : Nibble) : a &&& 0x0#4 = 0x0#4 := by revert a; decide

/-- The mask that keeps the opcode nibble. -/
theorem and_maskOp (w : Word) : w &&& 0xF000#16 = packNibbles (fieldOp w) 0x0#4 0x0#4 0x0#4 := by
  conv_lhs => rw [← packNibbles_fields w, show 0xF000#16 = packNibbles 0xF#4 0x0#4 0x0#4 0x0#4 by decide]
  rw [packNibbles_and, nibble_and_ones, nibble_and_zero, nibble_and_zero, nibble_and_zero]

/-- The mask that keeps the opcode and the low nibble. -/
theorem and_maskOpN (w : Word) :
    w &&& 0xF00F#16 = packNibbles (fieldOp w) 0x0#4 0x0#4 (fieldN w) := by
  conv_lhs => rw [← packNibbles_fields w, show 0xF00F#16 = packNibbles 0xF#4 0x0#4 0x0#4 0xF#4 by decide]
  rw [packNibbles_and, nibble_and_ones, nibble_and_zero, nibble_and_zero, nibble_and_ones]

/-- The mask that keeps the opcode and the low byte. -/
theorem and_maskOpKK (w : Word) : w &&& 0xF0FF#16 = packByte (fieldOp w) 0x0#4 (fieldKK w) := by
  conv_lhs => rw [← packNibbles_fields w, show 0xF0FF#16 = packNibbles 0xF#4 0x0#4 0xF#4 0xF#4 by decide]
  rw [packNibbles_and, nibble_and_ones, nibble_and_zero, nibble_and_ones, nibble_and_ones]
  exact BitVec.eq_of_toNat_eq (by
    rw [packNibbles_toNat, packByte_toNat, fieldKK_toNat, fieldY_toNat, fieldN_toNat]; omega)

/-! ### Bytes in memory order -/

@[simp] theorem wordOfBytes_high_low (w : Word) : wordOfBytes (highByte w) (lowByte w) = w :=
  BitVec.eq_of_toNat_eq (by
    have h : (wordOfBytes (highByte w) (lowByte w)).toNat = (highByte w ++ lowByte w).toNat := rfl
    have hw := w.isLt
    rw [h, toNat_append_eq]
    simp only [highByte, lowByte, BitVec.extractLsb'_toNat, Nat.shiftRight_eq_div_pow]; omega)

theorem wordOfBytes_toNat (hi lo : Byte) :
    (wordOfBytes hi lo).toNat = hi.toNat * 256 + lo.toNat := by
  have h : (wordOfBytes hi lo).toNat = (hi ++ lo).toNat := rfl
  rw [h, toNat_append_eq]; norm_num

/-! ### What the decoder can answer -/

/-- Where the decoder answers Unsupported, the operand is the word itself. -/
theorem decode_unsupported {w u : Word} (h : decode w = .unsupported u) : u = w := by
  unfold decode at h
  split at h <;> try contradiction
  · unfold decodeWhole at h; split at h <;> first | contradiction | (cases h; rfl)
  · unfold decodeAlu at h; split at h <;> first | contradiction | (cases h; rfl)
  · unfold decodeKey at h; split at h <;> first | contradiction | (cases h; rfl)
  · unfold decodeMisc at h; split at h <;> first | contradiction | (cases h; rfl)

end Sys2Proof
end

