-- ==== Sys2Proof/Laws/Memory.lean ====
section
/-! SUPPORT. The laws of memory: what a read sees after each operation, and that every operation keeps
the canonical form. -/

namespace Sys2Proof.Machine

@[simp] theorem Memory.read_nil (a : Nat) : Memory.read [] a = Memory.unlisted a := rfl

theorem fontTable_length : fontTable.length = 80 := by decide

/-- Outside the font area an unlisted address reads as zero (10_state R41). -/
theorem Memory.unlisted_outside_font {a : Nat} (h : a < 0x50 ∨ 0xA0 ≤ a) :
    Memory.unlisted a = 0x00#8 := by
  unfold Memory.unlisted
  split
  · rw [List.getElem?_eq_none (by rw [fontTable_length]; unfold fontBase at *; omega)]; rfl
  · rfl

/-- Inside it, as the font table (20_memory R57). -/
theorem Memory.unlisted_font {k : Nat} (hk : k < fontTable.length) :
    Memory.unlisted (0x50 + k) = fontTable[k] := by
  unfold Memory.unlisted
  rw [if_pos (by unfold fontBase; omega)]
  have : 0x50 + k - fontBase = k := by unfold fontBase; omega
  rw [this, List.getElem?_eq_getElem hk]; rfl

/-! ### Reads after an operation -/

theorem Memory.read_insert (m : Memory) (a : Nat) (b : Byte) (c : Nat) :
    (m.insert a b).read c = if c = a then b else m.read c := by
  induction m with
  | nil => simp only [Memory.insert, Memory.read]; grind
  | cons cell rest ih =>
    obtain ⟨d, e⟩ := cell
    simp only [Memory.insert]
    split
    · simp only [Memory.read]; grind
    · split
      · simp only [Memory.read]; grind
      · simp only [Memory.read, ih]; grind

theorem Memory.read_erase (m : Memory) (a c : Nat) :
    (m.erase a).read c = if c = a then Memory.unlisted a else m.read c := by
  induction m with
  | nil => simp only [Memory.erase, List.filter_nil, Memory.read]; grind
  | cons cell rest ih =>
    obtain ⟨d, e⟩ := cell
    simp only [Memory.erase] at ih
    by_cases hd : d = a
    · simp only [Memory.erase, List.filter_cons, hd, bne_self_eq_false, Memory.read]
      simp only [Bool.false_eq_true, if_false, ih]; grind
    · simp only [Memory.erase, List.filter_cons, bne_iff_ne, ne_eq, hd, not_false_eq_true, if_true,
        Memory.read, ih]
      grind

/-- A read after a write: the written byte at its address, the old byte everywhere else. -/
theorem Memory.read_write {a : Nat} (ha : a ≤ lastAddress) (m : Memory) (b : Byte) (c : Nat) :
    (m.write a b).read c = if c = a then b else m.read c := by
  unfold Memory.write
  rw [if_pos ha]
  split
  · rw [Memory.read_erase]; grind
  · exact Memory.read_insert m a b c

/-- A write leaves every other address alone, wherever it goes. -/
theorem Memory.read_write_ne {a c : Nat} (h : c ≠ a) (m : Memory) (b : Byte) :
    (m.write a b).read c = m.read c := by
  unfold Memory.write
  split
  · split
    · rw [Memory.read_erase, if_neg h]
    · rw [Memory.read_insert, if_neg h]
  · rfl

/-- Storing bytes leaves every address outside them alone. -/
theorem Memory.read_writeBytes_outside {bytes : List Byte} :
    ∀ {m : Memory} {a c : Nat}, c < a ∨ a + bytes.length ≤ c →
      (m.writeBytes a bytes).read c = m.read c := by
  induction bytes with
  | nil => intros; rfl
  | cons b rest ih =>
    intro m a c h
    simp only [List.length_cons] at h
    rw [Memory.writeBytes, ih (by omega), Memory.read_write_ne (by omega)]

/-- Storing bytes inside memory: each is read back at its place. -/
theorem Memory.read_writeBytes_inside {bytes : List Byte} :
    ∀ {m : Memory} {a k : Nat} (hk : k < bytes.length), a + bytes.length ≤ lastAddress + 1 →
      (m.writeBytes a bytes).read (a + k) = bytes[k] := by
  induction bytes with
  | nil => intro m a k hk; exact absurd hk (Nat.not_lt_zero k)
  | cons b rest ih =>
    intro m a k hk h
    simp only [List.length_cons] at h hk
    rw [Memory.writeBytes]
    cases k with
    | zero =>
      rw [Memory.read_writeBytes_outside (by omega), Memory.read_write (by omega)]
      simp
    | succ k =>
      have := ih (m := m.write a b) (a := a + 1) (k := k) (by omega) (by omega)
      rw [show a + 1 + k = a + (k + 1) by omega] at this
      simpa using this

/-! ### The canonical form is kept -/

theorem Memory.mem_insert {m : Memory} {a : Nat} {b : Byte} {cell : Host.Cell}
    (h : cell ∈ m.insert a b) : cell = (a, b) ∨ cell ∈ m := by
  induction m with
  | nil => simpa [Memory.insert] using h
  | cons head rest ih =>
    obtain ⟨c, d⟩ := head
    simp only [Memory.insert] at h
    split at h
    · grind
    · split at h
      · grind
      · grind

theorem Memory.wf_insert {m : Memory} (h : m.wf) {a : Nat} {b : Byte} (ha : a ≤ lastAddress)
    (hb : b ≠ Memory.unlisted a) : (m.insert a b).wf := by
  refine ⟨?_, fun cell hc => ?_⟩
  · obtain ⟨hp, -⟩ := h
    induction m with
    | nil => simp [Memory.insert]
    | cons head rest ih =>
      obtain ⟨c, d⟩ := head
      rw [List.pairwise_cons] at hp
      simp only [Memory.insert]
      split
      · rename_i hac
        refine List.pairwise_cons.2 ⟨fun x hx => ?_, List.pairwise_cons.2 hp⟩
        rcases List.mem_cons.1 hx with rfl | hx
        · exact hac
        · exact Nat.lt_trans hac (hp.1 x hx)
      · split
        · rename_i hac
          subst hac
          exact List.pairwise_cons.2 hp
        · rename_i hca hac
          refine List.pairwise_cons.2 ⟨fun x hx => ?_, ih hp.2⟩
          rcases Memory.mem_insert hx with rfl | hx
          · show c < a; omega
          · exact hp.1 x hx
  · rcases Memory.mem_insert hc with rfl | hc
    · exact ⟨ha, hb⟩
    · exact h.2 cell hc

theorem Memory.wf_erase {m : Memory} (h : m.wf) (a : Nat) : (m.erase a).wf :=
  ⟨h.1.filter _, fun cell hc => h.2 cell (List.mem_filter.1 hc).1⟩

theorem Memory.wf_write {m : Memory} (h : m.wf) (a : Nat) (b : Byte) : (m.write a b).wf := by
  unfold Memory.write
  split
  · rename_i ha
    split
    · exact Memory.wf_erase h a
    · rename_i hb
      exact Memory.wf_insert h ha hb
  · exact h

theorem Memory.wf_writeBytes {bytes : List Byte} :
    ∀ {m : Memory}, m.wf → ∀ a, (m.writeBytes a bytes).wf := by
  induction bytes with
  | nil => intro m h _; exact h
  | cons b rest ih => intro m h a; exact ih (Memory.wf_write h a b) (a + 1)

theorem Memory.wf_reset : Memory.wf State.reset.mem := by decide

/-- In canonical form, equal reads are equal data: two memories that read alike are the same list. -/
theorem Memory.read_eq_of_mem {m : Memory} (h : m.wf) {cell : Host.Cell} (hc : cell ∈ m) :
    m.read cell.1 = cell.2 := by
  induction m with
  | nil => cases hc
  | cons head rest ih =>
    obtain ⟨c, d⟩ := head
    obtain ⟨hp, hq⟩ := h
    rw [List.pairwise_cons] at hp
    simp only [Memory.read]
    rcases List.mem_cons.1 hc with rfl | hc
    · simp
    · have := hp.1 cell hc
      rw [if_neg (by simp at this; omega)]
      exact ih ⟨hp.2, fun x hx => hq x (List.mem_cons_of_mem _ hx)⟩ hc

end Sys2Proof.Machine
end

