-- ==== Sys2Proof/Laws/State.lean ====
section
/-! SUPPORT. Every field of every named update of the state, true by `rfl` and tagged `simp`, so that no
later proof unfolds a record update; and what `reg` reads after each. -/

namespace Sys2Proof.Machine

/-! `setPc` -/
@[simp] theorem State.setPc_v (s : State) (a : Word) :
    (s.setPc a).v = s.v := rfl
@[simp] theorem State.setPc_pc (s : State) (a : Word) :
    (s.setPc a).pc = a := rfl
@[simp] theorem State.setPc_i (s : State) (a : Word) :
    (s.setPc a).i = s.i := rfl
@[simp] theorem State.setPc_stack (s : State) (a : Word) :
    (s.setPc a).stack = s.stack := rfl
@[simp] theorem State.setPc_mem (s : State) (a : Word) :
    (s.setPc a).mem = s.mem := rfl
@[simp] theorem State.setPc_fb (s : State) (a : Word) :
    (s.setPc a).fb = s.fb := rfl
@[simp] theorem State.setPc_delayTimer (s : State) (a : Word) :
    (s.setPc a).delayTimer = s.delayTimer := rfl
@[simp] theorem State.setPc_soundTimer (s : State) (a : Word) :
    (s.setPc a).soundTimer = s.soundTimer := rfl
@[simp] theorem State.setPc_timerRunning (s : State) (a : Word) :
    (s.setPc a).timerRunning = s.timerRunning := rfl
@[simp] theorem State.setPc_keys (s : State) (a : Word) :
    (s.setPc a).keys = s.keys := rfl
@[simp] theorem State.setPc_keyQueue (s : State) (a : Word) :
    (s.setPc a).keyQueue = s.keyQueue := rfl
@[simp] theorem State.setPc_status (s : State) (a : Word) :
    (s.setPc a).status = s.status := rfl
@[simp] theorem State.setPc_cfg (s : State) (a : Word) :
    (s.setPc a).cfg = s.cfg := rfl
@[simp] theorem State.setPc_stop (s : State) (a : Word) :
    (s.setPc a).stop = s.stop := rfl
@[simp] theorem State.setPc_queueDisconnected (s : State) (a : Word) :
    (s.setPc a).queueDisconnected = s.queueDisconnected := rfl
@[simp] theorem State.setPc_draws (s : State) (a : Word) :
    (s.setPc a).draws = s.draws := rfl
@[simp] theorem State.setPc_schedule (s : State) (a : Word) :
    (s.setPc a).schedule = s.schedule := rfl
@[simp] theorem State.setPc_reg (s : State) (a : Word) (x : Nibble) :
    (s.setPc a).reg x = s.reg x := rfl

/-! `setIndex` -/
@[simp] theorem State.setIndex_v (s : State) (a : Word) :
    (s.setIndex a).v = s.v := rfl
@[simp] theorem State.setIndex_pc (s : State) (a : Word) :
    (s.setIndex a).pc = s.pc := rfl
@[simp] theorem State.setIndex_i (s : State) (a : Word) :
    (s.setIndex a).i = a := rfl
@[simp] theorem State.setIndex_stack (s : State) (a : Word) :
    (s.setIndex a).stack = s.stack := rfl
@[simp] theorem State.setIndex_mem (s : State) (a : Word) :
    (s.setIndex a).mem = s.mem := rfl
@[simp] theorem State.setIndex_fb (s : State) (a : Word) :
    (s.setIndex a).fb = s.fb := rfl
@[simp] theorem State.setIndex_delayTimer (s : State) (a : Word) :
    (s.setIndex a).delayTimer = s.delayTimer := rfl
@[simp] theorem State.setIndex_soundTimer (s : State) (a : Word) :
    (s.setIndex a).soundTimer = s.soundTimer := rfl
@[simp] theorem State.setIndex_timerRunning (s : State) (a : Word) :
    (s.setIndex a).timerRunning = s.timerRunning := rfl
@[simp] theorem State.setIndex_keys (s : State) (a : Word) :
    (s.setIndex a).keys = s.keys := rfl
@[simp] theorem State.setIndex_keyQueue (s : State) (a : Word) :
    (s.setIndex a).keyQueue = s.keyQueue := rfl
@[simp] theorem State.setIndex_status (s : State) (a : Word) :
    (s.setIndex a).status = s.status := rfl
@[simp] theorem State.setIndex_cfg (s : State) (a : Word) :
    (s.setIndex a).cfg = s.cfg := rfl
@[simp] theorem State.setIndex_stop (s : State) (a : Word) :
    (s.setIndex a).stop = s.stop := rfl
@[simp] theorem State.setIndex_queueDisconnected (s : State) (a : Word) :
    (s.setIndex a).queueDisconnected = s.queueDisconnected := rfl
@[simp] theorem State.setIndex_draws (s : State) (a : Word) :
    (s.setIndex a).draws = s.draws := rfl
@[simp] theorem State.setIndex_schedule (s : State) (a : Word) :
    (s.setIndex a).schedule = s.schedule := rfl
@[simp] theorem State.setIndex_reg (s : State) (a : Word) (x : Nibble) :
    (s.setIndex a).reg x = s.reg x := rfl

/-! `setStack` -/
@[simp] theorem State.setStack_v (s : State) (l : List Word) :
    (s.setStack l).v = s.v := rfl
@[simp] theorem State.setStack_pc (s : State) (l : List Word) :
    (s.setStack l).pc = s.pc := rfl
@[simp] theorem State.setStack_i (s : State) (l : List Word) :
    (s.setStack l).i = s.i := rfl
@[simp] theorem State.setStack_stack (s : State) (l : List Word) :
    (s.setStack l).stack = l := rfl
@[simp] theorem State.setStack_mem (s : State) (l : List Word) :
    (s.setStack l).mem = s.mem := rfl
@[simp] theorem State.setStack_fb (s : State) (l : List Word) :
    (s.setStack l).fb = s.fb := rfl
@[simp] theorem State.setStack_delayTimer (s : State) (l : List Word) :
    (s.setStack l).delayTimer = s.delayTimer := rfl
@[simp] theorem State.setStack_soundTimer (s : State) (l : List Word) :
    (s.setStack l).soundTimer = s.soundTimer := rfl
@[simp] theorem State.setStack_timerRunning (s : State) (l : List Word) :
    (s.setStack l).timerRunning = s.timerRunning := rfl
@[simp] theorem State.setStack_keys (s : State) (l : List Word) :
    (s.setStack l).keys = s.keys := rfl
@[simp] theorem State.setStack_keyQueue (s : State) (l : List Word) :
    (s.setStack l).keyQueue = s.keyQueue := rfl
@[simp] theorem State.setStack_status (s : State) (l : List Word) :
    (s.setStack l).status = s.status := rfl
@[simp] theorem State.setStack_cfg (s : State) (l : List Word) :
    (s.setStack l).cfg = s.cfg := rfl
@[simp] theorem State.setStack_stop (s : State) (l : List Word) :
    (s.setStack l).stop = s.stop := rfl
@[simp] theorem State.setStack_queueDisconnected (s : State) (l : List Word) :
    (s.setStack l).queueDisconnected = s.queueDisconnected := rfl
@[simp] theorem State.setStack_draws (s : State) (l : List Word) :
    (s.setStack l).draws = s.draws := rfl
@[simp] theorem State.setStack_schedule (s : State) (l : List Word) :
    (s.setStack l).schedule = s.schedule := rfl
@[simp] theorem State.setStack_reg (s : State) (l : List Word) (x : Nibble) :
    (s.setStack l).reg x = s.reg x := rfl

/-! `setMem` -/
@[simp] theorem State.setMem_v (s : State) (m : Memory) :
    (s.setMem m).v = s.v := rfl
@[simp] theorem State.setMem_pc (s : State) (m : Memory) :
    (s.setMem m).pc = s.pc := rfl
@[simp] theorem State.setMem_i (s : State) (m : Memory) :
    (s.setMem m).i = s.i := rfl
@[simp] theorem State.setMem_stack (s : State) (m : Memory) :
    (s.setMem m).stack = s.stack := rfl
@[simp] theorem State.setMem_mem (s : State) (m : Memory) :
    (s.setMem m).mem = m := rfl
@[simp] theorem State.setMem_fb (s : State) (m : Memory) :
    (s.setMem m).fb = s.fb := rfl
@[simp] theorem State.setMem_delayTimer (s : State) (m : Memory) :
    (s.setMem m).delayTimer = s.delayTimer := rfl
@[simp] theorem State.setMem_soundTimer (s : State) (m : Memory) :
    (s.setMem m).soundTimer = s.soundTimer := rfl
@[simp] theorem State.setMem_timerRunning (s : State) (m : Memory) :
    (s.setMem m).timerRunning = s.timerRunning := rfl
@[simp] theorem State.setMem_keys (s : State) (m : Memory) :
    (s.setMem m).keys = s.keys := rfl
@[simp] theorem State.setMem_keyQueue (s : State) (m : Memory) :
    (s.setMem m).keyQueue = s.keyQueue := rfl
@[simp] theorem State.setMem_status (s : State) (m : Memory) :
    (s.setMem m).status = s.status := rfl
@[simp] theorem State.setMem_cfg (s : State) (m : Memory) :
    (s.setMem m).cfg = s.cfg := rfl
@[simp] theorem State.setMem_stop (s : State) (m : Memory) :
    (s.setMem m).stop = s.stop := rfl
@[simp] theorem State.setMem_queueDisconnected (s : State) (m : Memory) :
    (s.setMem m).queueDisconnected = s.queueDisconnected := rfl
@[simp] theorem State.setMem_draws (s : State) (m : Memory) :
    (s.setMem m).draws = s.draws := rfl
@[simp] theorem State.setMem_schedule (s : State) (m : Memory) :
    (s.setMem m).schedule = s.schedule := rfl
@[simp] theorem State.setMem_reg (s : State) (m : Memory) (x : Nibble) :
    (s.setMem m).reg x = s.reg x := rfl

/-! `setFrame` -/
@[simp] theorem State.setFrame_v (s : State) (f : Frame) :
    (s.setFrame f).v = s.v := rfl
@[simp] theorem State.setFrame_pc (s : State) (f : Frame) :
    (s.setFrame f).pc = s.pc := rfl
@[simp] theorem State.setFrame_i (s : State) (f : Frame) :
    (s.setFrame f).i = s.i := rfl
@[simp] theorem State.setFrame_stack (s : State) (f : Frame) :
    (s.setFrame f).stack = s.stack := rfl
@[simp] theorem State.setFrame_mem (s : State) (f : Frame) :
    (s.setFrame f).mem = s.mem := rfl
@[simp] theorem State.setFrame_fb (s : State) (f : Frame) :
    (s.setFrame f).fb = f := rfl
@[simp] theorem State.setFrame_delayTimer (s : State) (f : Frame) :
    (s.setFrame f).delayTimer = s.delayTimer := rfl
@[simp] theorem State.setFrame_soundTimer (s : State) (f : Frame) :
    (s.setFrame f).soundTimer = s.soundTimer := rfl
@[simp] theorem State.setFrame_timerRunning (s : State) (f : Frame) :
    (s.setFrame f).timerRunning = s.timerRunning := rfl
@[simp] theorem State.setFrame_keys (s : State) (f : Frame) :
    (s.setFrame f).keys = s.keys := rfl
@[simp] theorem State.setFrame_keyQueue (s : State) (f : Frame) :
    (s.setFrame f).keyQueue = s.keyQueue := rfl
@[simp] theorem State.setFrame_status (s : State) (f : Frame) :
    (s.setFrame f).status = s.status := rfl
@[simp] theorem State.setFrame_cfg (s : State) (f : Frame) :
    (s.setFrame f).cfg = s.cfg := rfl
@[simp] theorem State.setFrame_stop (s : State) (f : Frame) :
    (s.setFrame f).stop = s.stop := rfl
@[simp] theorem State.setFrame_queueDisconnected (s : State) (f : Frame) :
    (s.setFrame f).queueDisconnected = s.queueDisconnected := rfl
@[simp] theorem State.setFrame_draws (s : State) (f : Frame) :
    (s.setFrame f).draws = s.draws := rfl
@[simp] theorem State.setFrame_schedule (s : State) (f : Frame) :
    (s.setFrame f).schedule = s.schedule := rfl
@[simp] theorem State.setFrame_reg (s : State) (f : Frame) (x : Nibble) :
    (s.setFrame f).reg x = s.reg x := rfl

/-! `setDelayTimer` -/
@[simp] theorem State.setDelayTimer_v (s : State) (b : Byte) :
    (s.setDelayTimer b).v = s.v := rfl
@[simp] theorem State.setDelayTimer_pc (s : State) (b : Byte) :
    (s.setDelayTimer b).pc = s.pc := rfl
@[simp] theorem State.setDelayTimer_i (s : State) (b : Byte) :
    (s.setDelayTimer b).i = s.i := rfl
@[simp] theorem State.setDelayTimer_stack (s : State) (b : Byte) :
    (s.setDelayTimer b).stack = s.stack := rfl
@[simp] theorem State.setDelayTimer_mem (s : State) (b : Byte) :
    (s.setDelayTimer b).mem = s.mem := rfl
@[simp] theorem State.setDelayTimer_fb (s : State) (b : Byte) :
    (s.setDelayTimer b).fb = s.fb := rfl
@[simp] theorem State.setDelayTimer_delayTimer (s : State) (b : Byte) :
    (s.setDelayTimer b).delayTimer = b := rfl
@[simp] theorem State.setDelayTimer_soundTimer (s : State) (b : Byte) :
    (s.setDelayTimer b).soundTimer = s.soundTimer := rfl
@[simp] theorem State.setDelayTimer_timerRunning (s : State) (b : Byte) :
    (s.setDelayTimer b).timerRunning = s.timerRunning := rfl
@[simp] theorem State.setDelayTimer_keys (s : State) (b : Byte) :
    (s.setDelayTimer b).keys = s.keys := rfl
@[simp] theorem State.setDelayTimer_keyQueue (s : State) (b : Byte) :
    (s.setDelayTimer b).keyQueue = s.keyQueue := rfl
@[simp] theorem State.setDelayTimer_status (s : State) (b : Byte) :
    (s.setDelayTimer b).status = s.status := rfl
@[simp] theorem State.setDelayTimer_cfg (s : State) (b : Byte) :
    (s.setDelayTimer b).cfg = s.cfg := rfl
@[simp] theorem State.setDelayTimer_stop (s : State) (b : Byte) :
    (s.setDelayTimer b).stop = s.stop := rfl
@[simp] theorem State.setDelayTimer_queueDisconnected (s : State) (b : Byte) :
    (s.setDelayTimer b).queueDisconnected = s.queueDisconnected := rfl
@[simp] theorem State.setDelayTimer_draws (s : State) (b : Byte) :
    (s.setDelayTimer b).draws = s.draws := rfl
@[simp] theorem State.setDelayTimer_schedule (s : State) (b : Byte) :
    (s.setDelayTimer b).schedule = s.schedule := rfl
@[simp] theorem State.setDelayTimer_reg (s : State) (b : Byte) (x : Nibble) :
    (s.setDelayTimer b).reg x = s.reg x := rfl

/-! `setSoundTimer` -/
@[simp] theorem State.setSoundTimer_v (s : State) (b : Byte) :
    (s.setSoundTimer b).v = s.v := rfl
@[simp] theorem State.setSoundTimer_pc (s : State) (b : Byte) :
    (s.setSoundTimer b).pc = s.pc := rfl
@[simp] theorem State.setSoundTimer_i (s : State) (b : Byte) :
    (s.setSoundTimer b).i = s.i := rfl
@[simp] theorem State.setSoundTimer_stack (s : State) (b : Byte) :
    (s.setSoundTimer b).stack = s.stack := rfl
@[simp] theorem State.setSoundTimer_mem (s : State) (b : Byte) :
    (s.setSoundTimer b).mem = s.mem := rfl
@[simp] theorem State.setSoundTimer_fb (s : State) (b : Byte) :
    (s.setSoundTimer b).fb = s.fb := rfl
@[simp] theorem State.setSoundTimer_delayTimer (s : State) (b : Byte) :
    (s.setSoundTimer b).delayTimer = s.delayTimer := rfl
@[simp] theorem State.setSoundTimer_soundTimer (s : State) (b : Byte) :
    (s.setSoundTimer b).soundTimer = b := rfl
@[simp] theorem State.setSoundTimer_timerRunning (s : State) (b : Byte) :
    (s.setSoundTimer b).timerRunning = s.timerRunning := rfl
@[simp] theorem State.setSoundTimer_keys (s : State) (b : Byte) :
    (s.setSoundTimer b).keys = s.keys := rfl
@[simp] theorem State.setSoundTimer_keyQueue (s : State) (b : Byte) :
    (s.setSoundTimer b).keyQueue = s.keyQueue := rfl
@[simp] theorem State.setSoundTimer_status (s : State) (b : Byte) :
    (s.setSoundTimer b).status = s.status := rfl
@[simp] theorem State.setSoundTimer_cfg (s : State) (b : Byte) :
    (s.setSoundTimer b).cfg = s.cfg := rfl
@[simp] theorem State.setSoundTimer_stop (s : State) (b : Byte) :
    (s.setSoundTimer b).stop = s.stop := rfl
@[simp] theorem State.setSoundTimer_queueDisconnected (s : State) (b : Byte) :
    (s.setSoundTimer b).queueDisconnected = s.queueDisconnected := rfl
@[simp] theorem State.setSoundTimer_draws (s : State) (b : Byte) :
    (s.setSoundTimer b).draws = s.draws := rfl
@[simp] theorem State.setSoundTimer_schedule (s : State) (b : Byte) :
    (s.setSoundTimer b).schedule = s.schedule := rfl
@[simp] theorem State.setSoundTimer_reg (s : State) (b : Byte) (x : Nibble) :
    (s.setSoundTimer b).reg x = s.reg x := rfl

/-! `setStatus` -/
@[simp] theorem State.setStatus_v (s : State) (r : RunStatus) :
    (s.setStatus r).v = s.v := rfl
@[simp] theorem State.setStatus_pc (s : State) (r : RunStatus) :
    (s.setStatus r).pc = s.pc := rfl
@[simp] theorem State.setStatus_i (s : State) (r : RunStatus) :
    (s.setStatus r).i = s.i := rfl
@[simp] theorem State.setStatus_stack (s : State) (r : RunStatus) :
    (s.setStatus r).stack = s.stack := rfl
@[simp] theorem State.setStatus_mem (s : State) (r : RunStatus) :
    (s.setStatus r).mem = s.mem := rfl
@[simp] theorem State.setStatus_fb (s : State) (r : RunStatus) :
    (s.setStatus r).fb = s.fb := rfl
@[simp] theorem State.setStatus_delayTimer (s : State) (r : RunStatus) :
    (s.setStatus r).delayTimer = s.delayTimer := rfl
@[simp] theorem State.setStatus_soundTimer (s : State) (r : RunStatus) :
    (s.setStatus r).soundTimer = s.soundTimer := rfl
@[simp] theorem State.setStatus_timerRunning (s : State) (r : RunStatus) :
    (s.setStatus r).timerRunning = s.timerRunning := rfl
@[simp] theorem State.setStatus_keys (s : State) (r : RunStatus) :
    (s.setStatus r).keys = s.keys := rfl
@[simp] theorem State.setStatus_keyQueue (s : State) (r : RunStatus) :
    (s.setStatus r).keyQueue = s.keyQueue := rfl
@[simp] theorem State.setStatus_status (s : State) (r : RunStatus) :
    (s.setStatus r).status = r := rfl
@[simp] theorem State.setStatus_cfg (s : State) (r : RunStatus) :
    (s.setStatus r).cfg = s.cfg := rfl
@[simp] theorem State.setStatus_stop (s : State) (r : RunStatus) :
    (s.setStatus r).stop = s.stop := rfl
@[simp] theorem State.setStatus_queueDisconnected (s : State) (r : RunStatus) :
    (s.setStatus r).queueDisconnected = s.queueDisconnected := rfl
@[simp] theorem State.setStatus_draws (s : State) (r : RunStatus) :
    (s.setStatus r).draws = s.draws := rfl
@[simp] theorem State.setStatus_schedule (s : State) (r : RunStatus) :
    (s.setStatus r).schedule = s.schedule := rfl
@[simp] theorem State.setStatus_reg (s : State) (r : RunStatus) (x : Nibble) :
    (s.setStatus r).reg x = s.reg x := rfl

/-! `setSchedule` -/
@[simp] theorem State.setSchedule_v (s : State) (l : List Move) :
    (s.setSchedule l).v = s.v := rfl
@[simp] theorem State.setSchedule_pc (s : State) (l : List Move) :
    (s.setSchedule l).pc = s.pc := rfl
@[simp] theorem State.setSchedule_i (s : State) (l : List Move) :
    (s.setSchedule l).i = s.i := rfl
@[simp] theorem State.setSchedule_stack (s : State) (l : List Move) :
    (s.setSchedule l).stack = s.stack := rfl
@[simp] theorem State.setSchedule_mem (s : State) (l : List Move) :
    (s.setSchedule l).mem = s.mem := rfl
@[simp] theorem State.setSchedule_fb (s : State) (l : List Move) :
    (s.setSchedule l).fb = s.fb := rfl
@[simp] theorem State.setSchedule_delayTimer (s : State) (l : List Move) :
    (s.setSchedule l).delayTimer = s.delayTimer := rfl
@[simp] theorem State.setSchedule_soundTimer (s : State) (l : List Move) :
    (s.setSchedule l).soundTimer = s.soundTimer := rfl
@[simp] theorem State.setSchedule_timerRunning (s : State) (l : List Move) :
    (s.setSchedule l).timerRunning = s.timerRunning := rfl
@[simp] theorem State.setSchedule_keys (s : State) (l : List Move) :
    (s.setSchedule l).keys = s.keys := rfl
@[simp] theorem State.setSchedule_keyQueue (s : State) (l : List Move) :
    (s.setSchedule l).keyQueue = s.keyQueue := rfl
@[simp] theorem State.setSchedule_status (s : State) (l : List Move) :
    (s.setSchedule l).status = s.status := rfl
@[simp] theorem State.setSchedule_cfg (s : State) (l : List Move) :
    (s.setSchedule l).cfg = s.cfg := rfl
@[simp] theorem State.setSchedule_stop (s : State) (l : List Move) :
    (s.setSchedule l).stop = s.stop := rfl
@[simp] theorem State.setSchedule_queueDisconnected (s : State) (l : List Move) :
    (s.setSchedule l).queueDisconnected = s.queueDisconnected := rfl
@[simp] theorem State.setSchedule_draws (s : State) (l : List Move) :
    (s.setSchedule l).draws = s.draws := rfl
@[simp] theorem State.setSchedule_schedule (s : State) (l : List Move) :
    (s.setSchedule l).schedule = l := rfl
@[simp] theorem State.setSchedule_reg (s : State) (l : List Move) (x : Nibble) :
    (s.setSchedule l).reg x = s.reg x := rfl

/-! `setReg` -/
@[simp] theorem State.setReg_v (s : State) (x : Nibble) (b : Byte) :
    (s.setReg x b).v = s.v.set x.toNat b x.isLt := rfl
@[simp] theorem State.setReg_pc (s : State) (x : Nibble) (b : Byte) :
    (s.setReg x b).pc = s.pc := rfl
@[simp] theorem State.setReg_i (s : State) (x : Nibble) (b : Byte) :
    (s.setReg x b).i = s.i := rfl
@[simp] theorem State.setReg_stack (s : State) (x : Nibble) (b : Byte) :
    (s.setReg x b).stack = s.stack := rfl
@[simp] theorem State.setReg_mem (s : State) (x : Nibble) (b : Byte) :
    (s.setReg x b).mem = s.mem := rfl
@[simp] theorem State.setReg_fb (s : State) (x : Nibble) (b : Byte) :
    (s.setReg x b).fb = s.fb := rfl
@[simp] theorem State.setReg_delayTimer (s : State) (x : Nibble) (b : Byte) :
    (s.setReg x b).delayTimer = s.delayTimer := rfl
@[simp] theorem State.setReg_soundTimer (s : State) (x : Nibble) (b : Byte) :
    (s.setReg x b).soundTimer = s.soundTimer := rfl
@[simp] theorem State.setReg_timerRunning (s : State) (x : Nibble) (b : Byte) :
    (s.setReg x b).timerRunning = s.timerRunning := rfl
@[simp] theorem State.setReg_keys (s : State) (x : Nibble) (b : Byte) :
    (s.setReg x b).keys = s.keys := rfl
@[simp] theorem State.setReg_keyQueue (s : State) (x : Nibble) (b : Byte) :
    (s.setReg x b).keyQueue = s.keyQueue := rfl
@[simp] theorem State.setReg_status (s : State) (x : Nibble) (b : Byte) :
    (s.setReg x b).status = s.status := rfl
@[simp] theorem State.setReg_cfg (s : State) (x : Nibble) (b : Byte) :
    (s.setReg x b).cfg = s.cfg := rfl
@[simp] theorem State.setReg_stop (s : State) (x : Nibble) (b : Byte) :
    (s.setReg x b).stop = s.stop := rfl
@[simp] theorem State.setReg_queueDisconnected (s : State) (x : Nibble) (b : Byte) :
    (s.setReg x b).queueDisconnected = s.queueDisconnected := rfl
@[simp] theorem State.setReg_draws (s : State) (x : Nibble) (b : Byte) :
    (s.setReg x b).draws = s.draws := rfl
@[simp] theorem State.setReg_schedule (s : State) (x : Nibble) (b : Byte) :
    (s.setReg x b).schedule = s.schedule := rfl

/-! `raise` -/
@[simp] theorem State.raise_v (s : State) (c : FaultCause) (info : Option Word) (at' : Word) (w : Option Word) :
    (s.raise c info at' w).v = s.v := rfl
@[simp] theorem State.raise_pc (s : State) (c : FaultCause) (info : Option Word) (at' : Word) (w : Option Word) :
    (s.raise c info at' w).pc = at' := rfl
@[simp] theorem State.raise_i (s : State) (c : FaultCause) (info : Option Word) (at' : Word) (w : Option Word) :
    (s.raise c info at' w).i = s.i := rfl
@[simp] theorem State.raise_stack (s : State) (c : FaultCause) (info : Option Word) (at' : Word) (w : Option Word) :
    (s.raise c info at' w).stack = s.stack := rfl
@[simp] theorem State.raise_mem (s : State) (c : FaultCause) (info : Option Word) (at' : Word) (w : Option Word) :
    (s.raise c info at' w).mem = s.mem := rfl
@[simp] theorem State.raise_fb (s : State) (c : FaultCause) (info : Option Word) (at' : Word) (w : Option Word) :
    (s.raise c info at' w).fb = s.fb := rfl
@[simp] theorem State.raise_delayTimer (s : State) (c : FaultCause) (info : Option Word) (at' : Word) (w : Option Word) :
    (s.raise c info at' w).delayTimer = s.delayTimer := rfl
@[simp] theorem State.raise_soundTimer (s : State) (c : FaultCause) (info : Option Word) (at' : Word) (w : Option Word) :
    (s.raise c info at' w).soundTimer = s.soundTimer := rfl
@[simp] theorem State.raise_timerRunning (s : State) (c : FaultCause) (info : Option Word) (at' : Word) (w : Option Word) :
    (s.raise c info at' w).timerRunning = s.timerRunning := rfl
@[simp] theorem State.raise_keys (s : State) (c : FaultCause) (info : Option Word) (at' : Word) (w : Option Word) :
    (s.raise c info at' w).keys = s.keys := rfl
@[simp] theorem State.raise_keyQueue (s : State) (c : FaultCause) (info : Option Word) (at' : Word) (w : Option Word) :
    (s.raise c info at' w).keyQueue = s.keyQueue := rfl
@[simp] theorem State.raise_status (s : State) (c : FaultCause) (info : Option Word) (at' : Word) (w : Option Word) :
    (s.raise c info at' w).status = .faulted ⟨c, info, at', w⟩ := rfl
@[simp] theorem State.raise_cfg (s : State) (c : FaultCause) (info : Option Word) (at' : Word) (w : Option Word) :
    (s.raise c info at' w).cfg = s.cfg := rfl
@[simp] theorem State.raise_stop (s : State) (c : FaultCause) (info : Option Word) (at' : Word) (w : Option Word) :
    (s.raise c info at' w).stop = s.stop := rfl
@[simp] theorem State.raise_queueDisconnected (s : State) (c : FaultCause) (info : Option Word) (at' : Word) (w : Option Word) :
    (s.raise c info at' w).queueDisconnected = s.queueDisconnected := rfl
@[simp] theorem State.raise_draws (s : State) (c : FaultCause) (info : Option Word) (at' : Word) (w : Option Word) :
    (s.raise c info at' w).draws = s.draws := rfl
@[simp] theorem State.raise_schedule (s : State) (c : FaultCause) (info : Option Word) (at' : Word) (w : Option Word) :
    (s.raise c info at' w).schedule = s.schedule := rfl
@[simp] theorem State.raise_reg (s : State) (c : FaultCause) (info : Option Word) (at' : Word)
    (w : Option Word) (x : Nibble) : (s.raise c info at' w).reg x = s.reg x := rfl

/-! `drain` -/
@[simp] theorem State.drain_v (s : State) :
    s.drain.v = s.v := rfl
@[simp] theorem State.drain_pc (s : State) :
    s.drain.pc = s.pc := rfl
@[simp] theorem State.drain_i (s : State) :
    s.drain.i = s.i := rfl
@[simp] theorem State.drain_stack (s : State) :
    s.drain.stack = s.stack := rfl
@[simp] theorem State.drain_mem (s : State) :
    s.drain.mem = s.mem := rfl
@[simp] theorem State.drain_fb (s : State) :
    s.drain.fb = s.fb := rfl
@[simp] theorem State.drain_delayTimer (s : State) :
    s.drain.delayTimer = s.delayTimer := rfl
@[simp] theorem State.drain_soundTimer (s : State) :
    s.drain.soundTimer = s.soundTimer := rfl
@[simp] theorem State.drain_timerRunning (s : State) :
    s.drain.timerRunning = s.timerRunning := rfl
@[simp] theorem State.drain_keys (s : State) :
    s.drain.keys = s.keyQueue.foldl applyKeyEvent s.keys := rfl
@[simp] theorem State.drain_keyQueue (s : State) :
    s.drain.keyQueue = [] := rfl
@[simp] theorem State.drain_status (s : State) :
    s.drain.status = s.status := rfl
@[simp] theorem State.drain_cfg (s : State) :
    s.drain.cfg = s.cfg := rfl
@[simp] theorem State.drain_stop (s : State) :
    s.drain.stop = s.stop := rfl
@[simp] theorem State.drain_queueDisconnected (s : State) :
    s.drain.queueDisconnected = s.queueDisconnected := rfl
@[simp] theorem State.drain_draws (s : State) :
    s.drain.draws = s.draws := rfl
@[simp] theorem State.drain_schedule (s : State) :
    s.drain.schedule = s.schedule := rfl
@[simp] theorem State.drain_reg (s : State) (x : Nibble) : s.drain.reg x = s.reg x := rfl

/-! `advancePc` -/
@[simp] theorem State.advancePc_v (s : State) :
    s.advancePc.v = s.v := rfl
@[simp] theorem State.advancePc_pc (s : State) :
    s.advancePc.pc = s.pc + 2#16 := rfl
@[simp] theorem State.advancePc_i (s : State) :
    s.advancePc.i = s.i := rfl
@[simp] theorem State.advancePc_stack (s : State) :
    s.advancePc.stack = s.stack := rfl
@[simp] theorem State.advancePc_mem (s : State) :
    s.advancePc.mem = s.mem := rfl
@[simp] theorem State.advancePc_fb (s : State) :
    s.advancePc.fb = s.fb := rfl
@[simp] theorem State.advancePc_delayTimer (s : State) :
    s.advancePc.delayTimer = s.delayTimer := rfl
@[simp] theorem State.advancePc_soundTimer (s : State) :
    s.advancePc.soundTimer = s.soundTimer := rfl
@[simp] theorem State.advancePc_timerRunning (s : State) :
    s.advancePc.timerRunning = s.timerRunning := rfl
@[simp] theorem State.advancePc_keys (s : State) :
    s.advancePc.keys = s.keys := rfl
@[simp] theorem State.advancePc_keyQueue (s : State) :
    s.advancePc.keyQueue = s.keyQueue := rfl
@[simp] theorem State.advancePc_status (s : State) :
    s.advancePc.status = s.status := rfl
@[simp] theorem State.advancePc_cfg (s : State) :
    s.advancePc.cfg = s.cfg := rfl
@[simp] theorem State.advancePc_stop (s : State) :
    s.advancePc.stop = s.stop := rfl
@[simp] theorem State.advancePc_queueDisconnected (s : State) :
    s.advancePc.queueDisconnected = s.queueDisconnected := rfl
@[simp] theorem State.advancePc_draws (s : State) :
    s.advancePc.draws = s.draws := rfl
@[simp] theorem State.advancePc_schedule (s : State) :
    s.advancePc.schedule = s.schedule := rfl
@[simp] theorem State.advancePc_reg (s : State) (x : Nibble) : s.advancePc.reg x = s.reg x := rfl

/-! `pushKeyEvent` -/
@[simp] theorem State.pushKeyEvent_v (s : State) (e : KeyEvent) :
    (s.pushKeyEvent e).v = s.v := rfl
@[simp] theorem State.pushKeyEvent_pc (s : State) (e : KeyEvent) :
    (s.pushKeyEvent e).pc = s.pc := rfl
@[simp] theorem State.pushKeyEvent_i (s : State) (e : KeyEvent) :
    (s.pushKeyEvent e).i = s.i := rfl
@[simp] theorem State.pushKeyEvent_stack (s : State) (e : KeyEvent) :
    (s.pushKeyEvent e).stack = s.stack := rfl
@[simp] theorem State.pushKeyEvent_mem (s : State) (e : KeyEvent) :
    (s.pushKeyEvent e).mem = s.mem := rfl
@[simp] theorem State.pushKeyEvent_fb (s : State) (e : KeyEvent) :
    (s.pushKeyEvent e).fb = s.fb := rfl
@[simp] theorem State.pushKeyEvent_delayTimer (s : State) (e : KeyEvent) :
    (s.pushKeyEvent e).delayTimer = s.delayTimer := rfl
@[simp] theorem State.pushKeyEvent_soundTimer (s : State) (e : KeyEvent) :
    (s.pushKeyEvent e).soundTimer = s.soundTimer := rfl
@[simp] theorem State.pushKeyEvent_timerRunning (s : State) (e : KeyEvent) :
    (s.pushKeyEvent e).timerRunning = s.timerRunning := rfl
@[simp] theorem State.pushKeyEvent_keys (s : State) (e : KeyEvent) :
    (s.pushKeyEvent e).keys = s.keys := rfl
@[simp] theorem State.pushKeyEvent_keyQueue (s : State) (e : KeyEvent) :
    (s.pushKeyEvent e).keyQueue = s.keyQueue ++ [e] := rfl
@[simp] theorem State.pushKeyEvent_status (s : State) (e : KeyEvent) :
    (s.pushKeyEvent e).status = s.status := rfl
@[simp] theorem State.pushKeyEvent_cfg (s : State) (e : KeyEvent) :
    (s.pushKeyEvent e).cfg = s.cfg := rfl
@[simp] theorem State.pushKeyEvent_stop (s : State) (e : KeyEvent) :
    (s.pushKeyEvent e).stop = s.stop := rfl
@[simp] theorem State.pushKeyEvent_queueDisconnected (s : State) (e : KeyEvent) :
    (s.pushKeyEvent e).queueDisconnected = s.queueDisconnected := rfl
@[simp] theorem State.pushKeyEvent_draws (s : State) (e : KeyEvent) :
    (s.pushKeyEvent e).draws = s.draws := rfl
@[simp] theorem State.pushKeyEvent_schedule (s : State) (e : KeyEvent) :
    (s.pushKeyEvent e).schedule = s.schedule := rfl

/-! `shutdown` -/
@[simp] theorem State.shutdown_v (s : State) :
    s.shutdown.v = s.v := rfl
@[simp] theorem State.shutdown_pc (s : State) :
    s.shutdown.pc = s.pc := rfl
@[simp] theorem State.shutdown_i (s : State) :
    s.shutdown.i = s.i := rfl
@[simp] theorem State.shutdown_stack (s : State) :
    s.shutdown.stack = s.stack := rfl
@[simp] theorem State.shutdown_mem (s : State) :
    s.shutdown.mem = s.mem := rfl
@[simp] theorem State.shutdown_fb (s : State) :
    s.shutdown.fb = s.fb := rfl
@[simp] theorem State.shutdown_delayTimer (s : State) :
    s.shutdown.delayTimer = s.delayTimer := rfl
@[simp] theorem State.shutdown_soundTimer (s : State) :
    s.shutdown.soundTimer = s.soundTimer := rfl
@[simp] theorem State.shutdown_timerRunning (s : State) :
    s.shutdown.timerRunning = false := rfl
@[simp] theorem State.shutdown_keys (s : State) :
    s.shutdown.keys = s.keys := rfl
@[simp] theorem State.shutdown_keyQueue (s : State) :
    s.shutdown.keyQueue = s.keyQueue := rfl
@[simp] theorem State.shutdown_status (s : State) :
    s.shutdown.status = s.status := rfl
@[simp] theorem State.shutdown_cfg (s : State) :
    s.shutdown.cfg = s.cfg := rfl
@[simp] theorem State.shutdown_stop (s : State) :
    s.shutdown.stop = s.stop := rfl
@[simp] theorem State.shutdown_queueDisconnected (s : State) :
    s.shutdown.queueDisconnected = s.queueDisconnected := rfl
@[simp] theorem State.shutdown_draws (s : State) :
    s.shutdown.draws = s.draws := rfl
@[simp] theorem State.shutdown_schedule (s : State) :
    s.shutdown.schedule = s.schedule := rfl

/-! `raiseIn` -/
@[simp] theorem State.raiseIn_v (s : State) (ins : Instr) (c : FaultCause) (info : Option Word) :
    (s.raiseIn ins c info).v = s.v := rfl
@[simp] theorem State.raiseIn_pc (s : State) (ins : Instr) (c : FaultCause) (info : Option Word) :
    (s.raiseIn ins c info).pc = s.pc - 2#16 := rfl
@[simp] theorem State.raiseIn_i (s : State) (ins : Instr) (c : FaultCause) (info : Option Word) :
    (s.raiseIn ins c info).i = s.i := rfl
@[simp] theorem State.raiseIn_stack (s : State) (ins : Instr) (c : FaultCause) (info : Option Word) :
    (s.raiseIn ins c info).stack = s.stack := rfl
@[simp] theorem State.raiseIn_mem (s : State) (ins : Instr) (c : FaultCause) (info : Option Word) :
    (s.raiseIn ins c info).mem = s.mem := rfl
@[simp] theorem State.raiseIn_fb (s : State) (ins : Instr) (c : FaultCause) (info : Option Word) :
    (s.raiseIn ins c info).fb = s.fb := rfl
@[simp] theorem State.raiseIn_delayTimer (s : State) (ins : Instr) (c : FaultCause) (info : Option Word) :
    (s.raiseIn ins c info).delayTimer = s.delayTimer := rfl
@[simp] theorem State.raiseIn_soundTimer (s : State) (ins : Instr) (c : FaultCause) (info : Option Word) :
    (s.raiseIn ins c info).soundTimer = s.soundTimer := rfl
@[simp] theorem State.raiseIn_timerRunning (s : State) (ins : Instr) (c : FaultCause) (info : Option Word) :
    (s.raiseIn ins c info).timerRunning = s.timerRunning := rfl
@[simp] theorem State.raiseIn_keys (s : State) (ins : Instr) (c : FaultCause) (info : Option Word) :
    (s.raiseIn ins c info).keys = s.keys := rfl
@[simp] theorem State.raiseIn_keyQueue (s : State) (ins : Instr) (c : FaultCause) (info : Option Word) :
    (s.raiseIn ins c info).keyQueue = s.keyQueue := rfl
@[simp] theorem State.raiseIn_status (s : State) (ins : Instr) (c : FaultCause) (info : Option Word) :
    (s.raiseIn ins c info).status = 
      .faulted ⟨c, info, s.pc - 2#16, some (encode ins)⟩ := rfl
@[simp] theorem State.raiseIn_cfg (s : State) (ins : Instr) (c : FaultCause) (info : Option Word) :
    (s.raiseIn ins c info).cfg = s.cfg := rfl
@[simp] theorem State.raiseIn_stop (s : State) (ins : Instr) (c : FaultCause) (info : Option Word) :
    (s.raiseIn ins c info).stop = s.stop := rfl
@[simp] theorem State.raiseIn_queueDisconnected (s : State) (ins : Instr) (c : FaultCause) (info : Option Word) :
    (s.raiseIn ins c info).queueDisconnected = s.queueDisconnected := rfl
@[simp] theorem State.raiseIn_draws (s : State) (ins : Instr) (c : FaultCause) (info : Option Word) :
    (s.raiseIn ins c info).draws = s.draws := rfl
@[simp] theorem State.raiseIn_schedule (s : State) (ins : Instr) (c : FaultCause) (info : Option Word) :
    (s.raiseIn ins c info).schedule = s.schedule := rfl
@[simp] theorem State.raiseIn_reg (s : State) (ins : Instr) (c : FaultCause) (info : Option Word)
    (x : Nibble) : (s.raiseIn ins c info).reg x = s.reg x := rfl

/-! `setFlag` -/
@[simp] theorem State.setFlag_pc (s : State) (f : Bool) :
    (s.setFlag f).pc = s.pc := rfl
@[simp] theorem State.setFlag_i (s : State) (f : Bool) :
    (s.setFlag f).i = s.i := rfl
@[simp] theorem State.setFlag_stack (s : State) (f : Bool) :
    (s.setFlag f).stack = s.stack := rfl
@[simp] theorem State.setFlag_mem (s : State) (f : Bool) :
    (s.setFlag f).mem = s.mem := rfl
@[simp] theorem State.setFlag_fb (s : State) (f : Bool) :
    (s.setFlag f).fb = s.fb := rfl
@[simp] theorem State.setFlag_delayTimer (s : State) (f : Bool) :
    (s.setFlag f).delayTimer = s.delayTimer := rfl
@[simp] theorem State.setFlag_soundTimer (s : State) (f : Bool) :
    (s.setFlag f).soundTimer = s.soundTimer := rfl
@[simp] theorem State.setFlag_timerRunning (s : State) (f : Bool) :
    (s.setFlag f).timerRunning = s.timerRunning := rfl
@[simp] theorem State.setFlag_keys (s : State) (f : Bool) :
    (s.setFlag f).keys = s.keys := rfl
@[simp] theorem State.setFlag_keyQueue (s : State) (f : Bool) :
    (s.setFlag f).keyQueue = s.keyQueue := rfl
@[simp] theorem State.setFlag_status (s : State) (f : Bool) :
    (s.setFlag f).status = s.status := rfl
@[simp] theorem State.setFlag_cfg (s : State) (f : Bool) :
    (s.setFlag f).cfg = s.cfg := rfl
@[simp] theorem State.setFlag_stop (s : State) (f : Bool) :
    (s.setFlag f).stop = s.stop := rfl
@[simp] theorem State.setFlag_queueDisconnected (s : State) (f : Bool) :
    (s.setFlag f).queueDisconnected = s.queueDisconnected := rfl
@[simp] theorem State.setFlag_draws (s : State) (f : Bool) :
    (s.setFlag f).draws = s.draws := rfl
@[simp] theorem State.setFlag_schedule (s : State) (f : Bool) :
    (s.setFlag f).schedule = s.schedule := rfl

/-! `setResultFlag` -/
@[simp] theorem State.setResultFlag_pc (s : State) (x : Nibble) (r : Byte) (f : Bool) :
    (s.setResultFlag x r f).pc = s.pc := rfl
@[simp] theorem State.setResultFlag_i (s : State) (x : Nibble) (r : Byte) (f : Bool) :
    (s.setResultFlag x r f).i = s.i := rfl
@[simp] theorem State.setResultFlag_stack (s : State) (x : Nibble) (r : Byte) (f : Bool) :
    (s.setResultFlag x r f).stack = s.stack := rfl
@[simp] theorem State.setResultFlag_mem (s : State) (x : Nibble) (r : Byte) (f : Bool) :
    (s.setResultFlag x r f).mem = s.mem := rfl
@[simp] theorem State.setResultFlag_fb (s : State) (x : Nibble) (r : Byte) (f : Bool) :
    (s.setResultFlag x r f).fb = s.fb := rfl
@[simp] theorem State.setResultFlag_delayTimer (s : State) (x : Nibble) (r : Byte) (f : Bool) :
    (s.setResultFlag x r f).delayTimer = s.delayTimer := rfl
@[simp] theorem State.setResultFlag_soundTimer (s : State) (x : Nibble) (r : Byte) (f : Bool) :
    (s.setResultFlag x r f).soundTimer = s.soundTimer := rfl
@[simp] theorem State.setResultFlag_timerRunning (s : State) (x : Nibble) (r : Byte) (f : Bool) :
    (s.setResultFlag x r f).timerRunning = s.timerRunning := rfl
@[simp] theorem State.setResultFlag_keys (s : State) (x : Nibble) (r : Byte) (f : Bool) :
    (s.setResultFlag x r f).keys = s.keys := rfl
@[simp] theorem State.setResultFlag_keyQueue (s : State) (x : Nibble) (r : Byte) (f : Bool) :
    (s.setResultFlag x r f).keyQueue = s.keyQueue := rfl
@[simp] theorem State.setResultFlag_status (s : State) (x : Nibble) (r : Byte) (f : Bool) :
    (s.setResultFlag x r f).status = s.status := rfl
@[simp] theorem State.setResultFlag_cfg (s : State) (x : Nibble) (r : Byte) (f : Bool) :
    (s.setResultFlag x r f).cfg = s.cfg := rfl
@[simp] theorem State.setResultFlag_stop (s : State) (x : Nibble) (r : Byte) (f : Bool) :
    (s.setResultFlag x r f).stop = s.stop := rfl
@[simp] theorem State.setResultFlag_queueDisconnected (s : State) (x : Nibble) (r : Byte) (f : Bool) :
    (s.setResultFlag x r f).queueDisconnected = s.queueDisconnected := rfl
@[simp] theorem State.setResultFlag_draws (s : State) (x : Nibble) (r : Byte) (f : Bool) :
    (s.setResultFlag x r f).draws = s.draws := rfl
@[simp] theorem State.setResultFlag_schedule (s : State) (x : Nibble) (r : Byte) (f : Bool) :
    (s.setResultFlag x r f).schedule = s.schedule := rfl

/-! `countDraw` -/
@[simp] theorem State.countDraw_v (s : State) : s.countDraw.v = s.v := rfl
@[simp] theorem State.countDraw_pc (s : State) : s.countDraw.pc = s.pc := rfl
@[simp] theorem State.countDraw_i (s : State) : s.countDraw.i = s.i := rfl
@[simp] theorem State.countDraw_stack (s : State) : s.countDraw.stack = s.stack := rfl
@[simp] theorem State.countDraw_mem (s : State) : s.countDraw.mem = s.mem := rfl
@[simp] theorem State.countDraw_fb (s : State) : s.countDraw.fb = s.fb := rfl
@[simp] theorem State.countDraw_delayTimer (s : State) : s.countDraw.delayTimer = s.delayTimer := rfl
@[simp] theorem State.countDraw_soundTimer (s : State) : s.countDraw.soundTimer = s.soundTimer := rfl
@[simp] theorem State.countDraw_timerRunning (s : State) : s.countDraw.timerRunning = s.timerRunning := rfl
@[simp] theorem State.countDraw_keys (s : State) : s.countDraw.keys = s.keys := rfl
@[simp] theorem State.countDraw_keyQueue (s : State) : s.countDraw.keyQueue = s.keyQueue := rfl
@[simp] theorem State.countDraw_status (s : State) : s.countDraw.status = s.status := rfl
@[simp] theorem State.countDraw_cfg (s : State) : s.countDraw.cfg = s.cfg := rfl
@[simp] theorem State.countDraw_stop (s : State) : s.countDraw.stop = s.stop := rfl
@[simp] theorem State.countDraw_queueDisconnected (s : State) : s.countDraw.queueDisconnected = s.queueDisconnected := rfl
@[simp] theorem State.countDraw_draws (s : State) : s.countDraw.draws = s.draws + 1 := rfl
@[simp] theorem State.countDraw_schedule (s : State) : s.countDraw.schedule = s.schedule := rfl
@[simp] theorem State.countDraw_reg (s : State) (x : Nibble) : s.countDraw.reg x = s.reg x := rfl

end Sys2Proof.Machine
end

