-- ==== Sys2Proof/Laws/Ops.lean ====
section
/-! SUPPORT. For each shared operation one lemma that says everything it can do; the proofs cite these
instead of unfolding the operation. -/

namespace Sys2Proof.Machine

/-! ### Registers -/

/-- A register read after a register write. -/
theorem State.reg_setReg (s : State) (x y : Nibble) (b : Byte) :
    (s.setReg x b).reg y = if y = x then b else s.reg y := by
  simp only [State.setReg, State.reg, Vector.getElem_set, BitVec.toNat_inj, eq_comm]

@[simp] theorem State.reg_setReg_same (s : State) (x : Nibble) (b : Byte) :
    (s.setReg x b).reg x = b := by rw [State.reg_setReg, if_pos rfl]

theorem State.reg_setReg_ne (s : State) {x y : Nibble} (h : y ≠ x) (b : Byte) :
    (s.setReg x b).reg y = s.reg y := by rw [State.reg_setReg, if_neg h]

/-- A register write changes the register file only. -/
theorem State.setReg_eq (s : State) (x : Nibble) (b : Byte) :
    s.setReg x b = { s with v := (s.setReg x b).v } := rfl

/-- Result, then flag: `vF` holds the flag; every other register named as destination the result. -/
theorem State.reg_setResultFlag (s : State) (x y : Nibble) (r : Byte) (f : Bool) :
    (s.setResultFlag x r f).reg y
      = if y = flagReg then flagByte f else if y = x then r else s.reg y := by
  simp only [State.setResultFlag, State.setFlag, State.reg_setReg]

/-- Result and flag change the register file only. -/
theorem State.setResultFlag_eq (s : State) (x : Nibble) (r : Byte) (f : Bool) :
    s.setResultFlag x r f = { s with v := (s.setResultFlag x r f).v } := rfl

theorem State.reg_setFlag (s : State) (y : Nibble) (f : Bool) :
    (s.setFlag f).reg y = if y = flagReg then flagByte f else s.reg y :=
  State.reg_setReg s flagReg y (flagByte f)

theorem State.setFlag_eq (s : State) (f : Bool) :
    s.setFlag f = { s with v := (s.setFlag f).v } := rfl

theorem flagByte_toNat (b : Bool) : (flagByte b).toNat = if b then 1 else 0 := by
  cases b <;> rfl

theorem flagByte_eq_one (b : Bool) : flagByte b = 0x01#8 ↔ b = true := by cases b <;> decide

theorem addrOperand_toNat (nnn : Addr12) : (addrOperand nnn).toNat = nnn.toNat := by
  have := nnn.isLt
  rw [addrOperand, BitVec.toNat_setWidth, Nat.mod_eq_of_lt (by omega)]

theorem glyphAddress_toNat (digit : Byte) : (glyphAddress digit).toNat = 0x50 + 5 * digit.toNat := by
  have := digit.isLt
  rw [glyphAddress, BitVec.toNat_ofNat, Nat.mod_eq_of_lt (by unfold fontBase; omega)]

@[simp] theorem bcdDigits_length (d : Byte) : (bcdDigits d).length = 3 := rfl

@[simp] theorem State.regsUpTo_length (s : State) (x : Nibble) :
    (s.regsUpTo x).length = x.toNat + 1 := by simp [State.regsUpTo]

/-! ### The stack -/

/-- Everything `push` can do. -/
theorem State.push_cases (s : State) (val : Word) :
    (s.stack.length < stackDepth ∧ s.push val = some (s.setStack (s.stack ++ [val])))
      ∨ (stackDepth ≤ s.stack.length ∧ s.push val = none) := by
  unfold State.push
  split
  · exact .inl ⟨‹_›, rfl⟩
  · exact .inr ⟨Nat.le_of_not_lt ‹_›, rfl⟩

/-- Everything `pop` can do. -/
theorem State.pop_cases (s : State) :
    (∃ rest val, s.stack = rest ++ [val] ∧ s.pop = some (val, s.setStack rest))
      ∨ (s.stack = [] ∧ s.pop = none) := by
  unfold State.pop
  rcases List.eq_nil_or_concat s.stack with h | ⟨rest, val, h⟩
  · exact .inr ⟨h, by simp [h]⟩
  · exact .inl ⟨rest, val, by simpa using h, by simp [h]⟩

/-! ### Faults -/

/-- A fault in the execute phase writes `pc` and `status` and nothing else. -/
theorem State.raiseIn_eq (s : State) (ins : Instr) (c : FaultCause) (info : Option Word) :
    s.raiseIn ins c info
      = { s with
          pc := s.pc - 2#16
          status := .faulted ⟨c, info, s.pc - 2#16, some (encode ins)⟩ } := rfl

/-- The lowest offending address of a run of consecutive addresses (20_memory R54). -/
theorem find_outOfBounds (base n : Nat) :
    ((List.range n).map (fun k => base + k)).find? (fun a => decide (lastAddress < a))
      = if base + n ≤ lastAddress + 1 ∨ n = 0 then none else some (max base (lastAddress + 1)) := by
  induction n with
  | zero => simp
  | succ n ih =>
    rw [List.range_succ, List.map_append, List.find?_append, ih]
    simp only [List.map_cons, List.map_nil, List.find?_cons, List.find?_nil]
    by_cases h1 : base + n ≤ lastAddress + 1 ∨ n = 0
    · rw [if_pos h1]
      by_cases h2 : lastAddress < base + n
      · rw [if_neg (by omega)]
        have : base + n = max base (lastAddress + 1) := by omega
        simp [this]
      · rw [if_pos (by omega)]
        simp [h2]
    · rw [if_neg h1, if_neg (by omega)]
      simp

/-- Everything `checked` can do on the addresses `i`, ..., `i + (n - 1)`: all inside memory and done, or
MemoryOutOfBounds with `max(i, 0x1000)` (60_exceptions R205). -/
theorem State.checked_run (s : State) (ins : Instr) {n : Nat} (hn : 0 < n) (done : State) :
    s.checked ins ((List.range n).map (fun k => s.i.toNat + k)) done
      = if s.i.toNat + n ≤ lastAddress + 1 then done
        else s.raiseIn ins .memoryOutOfBounds
          (some (BitVec.ofNat 16 (max s.i.toNat (lastAddress + 1)))) := by
  unfold State.checked
  rw [find_outOfBounds]
  by_cases h : s.i.toNat + n ≤ lastAddress + 1
  · rw [if_pos (.inl h), if_pos h]
  · rw [if_neg (by omega), if_neg h]

theorem State.checked_indexRun (s : State) (ins : Instr) {n : Nat} (hn : 0 < n) (done : State) :
    s.checked ins (s.indexRun n) done
      = if s.i.toNat + n ≤ lastAddress + 1 then done
        else s.raiseIn ins .memoryOutOfBounds
          (some (BitVec.ofNat 16 (max s.i.toNat (lastAddress + 1)))) :=
  s.checked_run ins hn done

/-- Everything `checked` can do on any addresses. -/
theorem State.checked_cases (s : State) (ins : Instr) (addresses : List Nat) (done : State) :
    ((∀ a ∈ addresses, a ≤ lastAddress) ∧ s.checked ins addresses done = done)
      ∨ ∃ a ∈ addresses, lastAddress < a ∧ s.checked ins addresses done
          = s.raiseIn ins .memoryOutOfBounds (some (BitVec.ofNat 16 a)) := by
  unfold State.checked
  cases h : addresses.find? (fun a => decide (lastAddress < a)) with
  | none =>
    refine .inl ⟨fun a ha => ?_, rfl⟩
    have := List.find?_eq_none.1 h a ha
    simpa using this
  | some a =>
    have ha := List.find?_some h
    exact .inr ⟨a, List.mem_of_find?_eq_some h, by simpa using ha, rfl⟩

/-! ### The cycle before execute -/

/-- Everything a fetch can do. -/
theorem State.fetch_cases (s : State) :
    (s.pc.toNat < lastAddress ∧ s.fetch
        = some (wordOfBytes (s.byteAt s.pc.toNat) (s.byteAt (s.pc.toNat + 1))))
      ∨ (lastAddress ≤ s.pc.toNat ∧ s.fetch = none) := by
  unfold State.fetch
  split
  · exact .inl ⟨‹_›, rfl⟩
  · exact .inr ⟨Nat.le_of_not_lt ‹_›, rfl⟩

@[simp] theorem State.fetch_drain (s : State) : s.drain.fetch = s.fetch := rfl

/-- Everything a skip can do. -/
theorem State.skipIf_cases (s : State) (c : Bool) :
    (c = true ∧ s.skipIf c = s.setPc (s.pc + 2#16)) ∨ (c = false ∧ s.skipIf c = s) := by
  cases c
  · exact .inr ⟨rfl, rfl⟩
  · exact .inl ⟨rfl, rfl⟩

/-- A skip changes the program counter only. -/
theorem State.skipIf_eq (s : State) (c : Bool) :
    s.skipIf c = s.setPc (if c then s.pc + 2#16 else s.pc) := by cases c <;> rfl

/-! ### Block transfers -/

/-- Loading registers changes the register file only. -/
theorem State.loadRegs_eq (ks : List Nat) :
    ∀ s : State, s.loadRegs ks = { s with v := (s.loadRegs ks).v } := by
  induction ks with
  | nil => intro s; rfl
  | cons k rest ih => intro s; rw [State.loadRegs, ih]; rfl

/-- What a register holds after registers were loaded: its byte of memory if it was in the list. -/
theorem State.reg_loadRegs (ks : List Nat) (hks : ∀ k ∈ ks, k < 16) :
    ∀ (s : State) (y : Nibble), (s.loadRegs ks).reg y
      = if y.toNat ∈ ks then s.byteAt (s.i.toNat + y.toNat) else s.reg y := by
  induction ks with
  | nil => intro s y; simp [State.loadRegs]
  | cons k rest ih =>
    intro s y
    have hk : k < 16 := hks k (by simp)
    have hy : (BitVec.ofNat 4 k).toNat = k := by simp; omega
    have he : y = BitVec.ofNat 4 k ↔ y.toNat = k := by
      constructor
      · rintro rfl; exact hy
      · rintro rfl; simp
    rw [State.loadRegs, ih (fun j hj => hks j (List.mem_cons_of_mem _ hj)), State.reg_setReg]
    simp only [State.byteAt, State.setReg_mem, State.setReg_i, List.mem_cons, he]
    by_cases h1 : y.toNat ∈ rest
    · simp [h1]
    · by_cases h2 : y.toNat = k
      · simp [h2]
      · simp [h1, h2]

/-- The post-modification of a block transfer changes the index register only. -/
theorem State.bumpIndex_eq (s : State) (x : Nibble) :
    s.bumpIndex x
      = s.setIndex (if s.cfg.isNewChip8 then s.i else s.i + x.setWidth 16 + 1#16) := by
  unfold State.bumpIndex
  split <;> rfl

/-! ### The keyboard -/

/-- Everything a scan of the latch can answer: no key is down, or the lowest one that is. -/
theorem State.lowestKeyDown_cases (s : State) :
    (s.keys = 0x0000#16 ∧ s.lowestKeyDown = none)
      ∨ ∃ k, k < 16 ∧ s.keys.getLsbD k = true ∧ (∀ j < k, s.keys.getLsbD j = false)
          ∧ s.lowestKeyDown = some k := by
  cases h : s.lowestKeyDown with
  | none =>
    refine .inl ⟨?_, rfl⟩
    have hn := List.find?_eq_none.1 h
    ext j hj
    have := hn j (List.mem_range.2 hj)
    rw [← BitVec.getLsbD_eq_getElem]
    simpa using this
  | some k =>
    obtain ⟨hk, as, bs, hs, hlt⟩ := List.find?_eq_some_iff_append.1 h
    have hmem : k ∈ List.range 16 := by rw [hs]; simp
    refine .inr ⟨k, List.mem_range.1 hmem, by simpa using hk, fun j hj => ?_, rfl⟩
    have hj16 : j ∈ List.range 16 := List.mem_range.2 (by have := List.mem_range.1 hmem; omega)
    rw [hs] at hj16
    rcases List.mem_append.1 hj16 with hj' | hj'
    · simpa using hlt j hj'
    · exfalso
      have hsorted : (as ++ k :: bs).Pairwise (· < ·) := hs ▸ List.pairwise_lt_range
      have hk2 := (List.pairwise_cons.1 (List.pairwise_append.1 hsorted).2.1).1
      rcases List.mem_cons.1 hj' with rfl | hj''
      · omega
      · have := hk2 j hj''; omega

/-! ### The timers -/

/-- A counter after a tick, as a number: one less, floored at zero. -/
theorem countDown_toNat (b : Byte) : (countDown b).toNat = b.toNat - 1 := by
  unfold countDown
  split
  · simp_all
  · rename_i h
    have h0 : b.toNat ≠ 0 := fun hb => h (BitVec.eq_of_toNat_eq (by simpa using hb))
    rw [BitVec.toNat_sub]
    have := b.isLt
    simp; omega

/-- Everything a tick can do. -/
theorem State.tick_cases (s : State) :
    (s.timerRunning = true ∧ s.tick
        = { s with delayTimer := countDown s.delayTimer, soundTimer := countDown s.soundTimer })
      ∨ (s.timerRunning = false ∧ s.tick = s) := by
  unfold State.tick
  cases s.timerRunning
  · exact .inr ⟨rfl, by simp⟩
  · exact .inl ⟨rfl, by simp⟩

end Sys2Proof.Machine
end

