-- ==== Sys2Proof/Laws/Display.lean ====
section
/-! SUPPORT. The rasterizer, cell by cell: what the loops of 42_display R141 leave in every cell, and when
they report a collision (R143 (h): no cell is touched twice, so the order does not matter). -/

namespace Sys2Proof.Machine

theorem Frame.pixel_setPixel (f : Frame) (r r' : Fin 32) (c c' : Fin 64) (b : Bool) :
    (f.setPixel r c b).pixel r' c' = if r' = r ∧ c' = c then b else f.pixel r' c' := by
  simp only [Frame.pixel, Frame.setPixel, Vector.get_eq_getElem, Vector.getElem_set, Fin.ext_iff]
  by_cases hr : r.val = r'.val
  · have : r = r' := Fin.ext hr
    subst this
    by_cases hc : c.val = c'.val
    · simp [hc]
    · simp [hc, Ne.symm hc]
  · simp [hr, Ne.symm hr]

/-- Two frame buffers that agree in every cell are the same. -/
theorem Frame.ext_pixel {f g : Frame} (h : ∀ r c, f.pixel r c = g.pixel r c) : f = g := by
  refine Vector.ext fun r hr => Vector.ext fun c hc => ?_
  exact h ⟨r, hr⟩ ⟨c, hc⟩

@[simp] theorem blankFrame_pixel (r : Fin 32) (c : Fin 64) : blankFrame.pixel r c = false := by
  simp [blankFrame, Frame.pixel, Vector.get_eq_getElem]

/-- The first `m` pixels of a sprite row. -/
theorem foldl_xorPixel (x0 : Nat) (row : Fin 32) (b : Byte) (acc : Frame × Bool) (m : Nat) :
    (∀ r c, ((List.range m).foldl (xorPixel x0 row b) acc).1.pixel r c
        = (acc.1.pixel r c
            ^^ (decide (r = row ∧ x0 ≤ c.val ∧ c.val < x0 + m) && spriteBit b (c.val - x0))))
      ∧ (((List.range m).foldl (xorPixel x0 row b) acc).2 = true
          ↔ acc.2 = true ∨ ∃ c : Fin 64, x0 ≤ c.val ∧ c.val < x0 + m
              ∧ acc.1.pixel row c = true ∧ spriteBit b (c.val - x0) = true) := by
  induction m with
  | zero =>
    refine ⟨fun r c => ?_, ?_⟩
    · have : ¬(r = row ∧ x0 ≤ c.val ∧ c.val < x0 + 0) := by omega
      rw [decide_eq_false this]; simp
    · simp only [List.range_zero, List.foldl_nil]
      constructor
      · exact .inl
      · rintro (h | ⟨c, h1, h2, -⟩)
        · exact h
        · omega
  | succ m ih =>
    obtain ⟨ihp, ihc⟩ := ih
    rw [List.range_succ, List.foldl_append, List.foldl_cons, List.foldl_nil]
    generalize hacc : (List.range m).foldl (xorPixel x0 row b) acc = mid at ihp ihc ⊢
    unfold xorPixel
    by_cases hx : x0 + m < 64
    · rw [dif_pos hx]
      refine ⟨fun r c => ?_, ?_⟩
      · simp only [Frame.pixel_setPixel]
        by_cases hc : r = row ∧ c = ⟨x0 + m, hx⟩
        · obtain ⟨rfl, rfl⟩ := hc
          simp [ihp]
        · rw [if_neg hc, ihp]
          congr 2
          have : (r = row ∧ x0 ≤ c.val ∧ c.val < x0 + (m + 1))
              ↔ (r = row ∧ x0 ≤ c.val ∧ c.val < x0 + m) := by
            constructor
            · rintro ⟨h1, h2, h3⟩
              refine ⟨h1, h2, ?_⟩
              have : c.val ≠ x0 + m := fun h => hc ⟨h1, Fin.ext h⟩
              omega
            · rintro ⟨h1, h2, h3⟩; exact ⟨h1, h2, by omega⟩
          simp [this]
      · simp only [Bool.or_eq_true, Bool.and_eq_true, ihc, ihp]
        constructor
        · rintro ((h | ⟨c, h1, h2, h3, h4⟩) | ⟨h1, h2⟩)
          · exact .inl h
          · exact .inr ⟨c, h1, by omega, h3, h4⟩
          · refine .inr ⟨⟨x0 + m, hx⟩, by simp, by simp, ?_, by simpa using h2⟩
            simpa using h1
        · rintro (h | ⟨c, h1, h2, h3, h4⟩)
          · exact .inl (.inl h)
          · by_cases hc : c.val < x0 + m
            · exact .inl (.inr ⟨c, h1, hc, h3, h4⟩)
            · have hcm : c = ⟨x0 + m, hx⟩ := Fin.ext (by simp; omega)
              subst hcm
              refine .inr ⟨?_, by simpa using h4⟩
              simpa using h3
    · rw [dif_neg hx]
      refine ⟨fun r c => ?_, ?_⟩
      · rw [ihp]
        have : (x0 ≤ c.val ∧ c.val < x0 + (m + 1)) ↔ (x0 ≤ c.val ∧ c.val < x0 + m) := by
          have := c.isLt; omega
        simp [this]
      · rw [ihc]
        constructor
        · rintro (h | ⟨c, h1, h2, h3⟩)
          · exact .inl h
          · exact .inr ⟨c, h1, by omega, h3⟩
        · rintro (h | ⟨c, h1, h2, h3⟩)
          · exact .inl h
          · exact .inr ⟨c, h1, by have := c.isLt; omega, h3⟩

/-- Skipped rows change nothing, so the drawn rows may be taken as all rows. -/
theorem foldl_drawnRows (x0 y0 n : Nat) (byteOf : Nat → Byte) (acc : Frame × Bool) :
    (drawnRows y0 n).foldl (xorRow x0 y0 byteOf) acc
      = (List.range n).foldl (xorRow x0 y0 byteOf) acc := by
  unfold drawnRows
  generalize List.range n = l
  induction l generalizing acc with
  | nil => rfl
  | cons k rest ih =>
    rw [List.filter_cons]
    split
    · simp only [List.foldl_cons]; exact ih _
    · rename_i h
      have hk : ¬y0 + k < 32 := by simpa using h
      rw [ih, List.foldl_cons]
      congr 1
      unfold xorRow
      rw [dif_neg hk]

theorem rasterized (x0 y0 n : Nat) (byteOf : Nat → Byte) (f : Frame) :
    (∀ r c, ((List.range n).foldl (xorRow x0 y0 byteOf) (f, false)).1.pixel r c
        = (f.pixel r c ^^ spriteAt x0 y0 n byteOf r c))
      ∧ (((List.range n).foldl (xorRow x0 y0 byteOf) (f, false)).2 = true
          ↔ ∃ r c, f.pixel r c = true ∧ spriteAt x0 y0 n byteOf r c = true) := by
  induction n with
  | zero =>
    have h0 : ∀ (r : Fin 32) (c : Fin 64), spriteAt x0 y0 0 byteOf r c = false := by
      intro r c
      have : ¬(y0 ≤ r.val ∧ r.val < y0 + 0 ∧ x0 ≤ c.val ∧ c.val < x0 + 8) := by omega
      simp only [spriteAt, this, decide_false, Bool.false_and]
    simp [h0]
  | succ n ih =>
    obtain ⟨ihp, ihc⟩ := ih
    rw [List.range_succ, List.foldl_append, List.foldl_cons, List.foldl_nil]
    generalize (List.range n).foldl (xorRow x0 y0 byteOf) (f, false) = mid at ihp ihc ⊢
    have hsplit : ∀ (r : Fin 32) (c : Fin 64), r.val ≠ y0 + n →
        spriteAt x0 y0 (n + 1) byteOf r c = spriteAt x0 y0 n byteOf r c := by
      intro r c hr
      have : (y0 ≤ r.val ∧ r.val < y0 + (n + 1) ∧ x0 ≤ c.val ∧ c.val < x0 + 8)
          ↔ (y0 ≤ r.val ∧ r.val < y0 + n ∧ x0 ≤ c.val ∧ c.val < x0 + 8) := by omega
      simp only [spriteAt, this]
    have hnew : ∀ (r : Fin 32) (c : Fin 64), r.val = y0 + n →
        spriteAt x0 y0 n byteOf r c = false
          ∧ spriteAt x0 y0 (n + 1) byteOf r c
            = (decide (x0 ≤ c.val ∧ c.val < x0 + 8) && spriteBit (byteOf n) (c.val - x0)) := by
      intro r c hr
      constructor
      · have : ¬(y0 ≤ r.val ∧ r.val < y0 + n ∧ x0 ≤ c.val ∧ c.val < x0 + 8) := by omega
        simp only [spriteAt, this, decide_false, Bool.false_and]
      · have h1 : (y0 ≤ r.val ∧ r.val < y0 + (n + 1) ∧ x0 ≤ c.val ∧ c.val < x0 + 8)
            ↔ (x0 ≤ c.val ∧ c.val < x0 + 8) := by omega
        have h2 : r.val - y0 = n := by omega
        simp only [spriteAt, h1, h2]
    unfold xorRow
    by_cases hy : y0 + n < 32
    · rw [dif_pos hy]
      obtain ⟨hp, hc⟩ := foldl_xorPixel x0 ⟨y0 + n, hy⟩ (byteOf n) mid 8
      refine ⟨fun r c => ?_, ?_⟩
      · rw [hp, ihp]
        by_cases hr : r.val = y0 + n
        · obtain ⟨h1, h2⟩ := hnew r c hr
          have hrow : r = ⟨y0 + n, hy⟩ := Fin.ext hr
          rw [h1, h2]
          simp [hrow]
        · have hrow : ¬(r = ⟨y0 + n, hy⟩) := fun h => hr (congrArg Fin.val h)
          rw [hsplit r c hr]
          simp [hrow]
      · rw [hc, ihc]
        constructor
        · rintro (⟨r, c, h1, h2⟩ | ⟨c, h1, h2, h3, h4⟩)
          · refine ⟨r, c, h1, ?_⟩
            by_cases hr : r.val = y0 + n
            · rw [(hnew r c hr).1] at h2; cases h2
            · rw [hsplit r c hr]; exact h2
          · obtain ⟨h5, h6⟩ := hnew ⟨y0 + n, hy⟩ c rfl
            refine ⟨⟨y0 + n, hy⟩, c, ?_, ?_⟩
            · rw [ihp, h5] at h3; simpa using h3
            · rw [h6]; simp [h1, h2, h4]
        · rintro ⟨r, c, h1, h2⟩
          by_cases hr : r.val = y0 + n
          · obtain ⟨h5, h6⟩ := hnew r c hr
            have hrow : r = ⟨y0 + n, hy⟩ := Fin.ext hr
            rw [h6] at h2
            simp only [Bool.and_eq_true, decide_eq_true_eq] at h2
            refine .inr ⟨c, h2.1.1, h2.1.2, ?_, h2.2⟩
            rw [← hrow, ihp, h5, h1]; rfl
          · rw [hsplit r c hr] at h2
            exact .inl ⟨r, c, h1, h2⟩
    · rw [dif_neg hy]
      have hr : ∀ r : Fin 32, r.val ≠ y0 + n := fun r => by have := r.isLt; omega
      exact ⟨fun r c => by rw [ihp, hsplit r c (hr r)], by simp only [ihc, hsplit _ _ (hr _)]⟩

/-- Every cell after a sprite: the old cell, exclusive or the sprite's pixel there. -/
theorem drawSprite_pixel (x0 y0 n : Nat) (byteOf : Nat → Byte) (f : Frame) (r : Fin 32)
    (c : Fin 64) : (drawSprite x0 y0 n byteOf f).1.pixel r c
      = (f.pixel r c ^^ spriteAt x0 y0 n byteOf r c) := by
  unfold drawSprite
  rw [foldl_drawnRows]
  exact (rasterized x0 y0 n byteOf f).1 r c

/-- A collision: some cell was set and lies under a sprite bit of 1. -/
theorem drawSprite_collision (x0 y0 n : Nat) (byteOf : Nat → Byte) (f : Frame) :
    (drawSprite x0 y0 n byteOf f).2 = true
      ↔ ∃ r c, f.pixel r c = true ∧ spriteAt x0 y0 n byteOf r c = true := by
  unfold drawSprite
  rw [foldl_drawnRows]
  exact (rasterized x0 y0 n byteOf f).2

/-- The drawn rows are the first ones: those above the bottom edge. -/
theorem drawnRows_eq (y0 n : Nat) : drawnRows y0 n = List.range (min n (32 - y0)) := by
  unfold drawnRows
  induction n with
  | zero => simp
  | succ n ih =>
    rw [List.range_succ, List.filter_append, ih, List.filter_cons, List.filter_nil]
    by_cases h : y0 + n < 32
    · have h1 : min (n + 1) (32 - y0) = n + 1 := by omega
      have h2 : min n (32 - y0) = n := by omega
      rw [h1, h2, List.range_succ]
      simp [h]
    · have h1 : min (n + 1) (32 - y0) = min n (32 - y0) := by omega
      rw [h1]
      simp [h]

/-- Everything `checked` can do on the addresses of the drawn rows: MemoryOutOfBounds with the lowest
offending one when some drawn row lies above `0xFFF`, and done otherwise (42_display R141). -/
theorem State.checked_drawnRows (s : State) (ins : Instr) (y0 n : Nat) (done : State) :
    s.checked ins ((drawnRows y0 n).map (fun k => s.i.toNat + k)) done
      = if 0 < min n (32 - y0) ∧ lastAddress + 1 < s.i.toNat + min n (32 - y0) then
          s.raiseIn ins .memoryOutOfBounds
            (some (BitVec.ofNat 16 (max s.i.toNat (lastAddress + 1))))
        else done := by
  rw [drawnRows_eq]
  by_cases h : 0 < min n (32 - y0)
  · rw [State.checked_run _ _ h]
    split <;> split <;> first | rfl | omega
  · have : min n (32 - y0) = 0 := by omega
    rw [this]; simp [State.checked]

end Sys2Proof.Machine
end

