-- ==== Sys2Proof/Laws/PerInstr.lean ====
section
/-! SUPPORT. The family FormRowOfEncoding: the word that the encoder writes for an instruction lies in the
row of R74's opcode map that the instruction is listed in. -/

namespace Sys2Proof.Laws.FormRowOfEncoding

/-- The encoding of a well-formed instruction selects the instruction's own row (30_encoding R74). -/
def Statement (i : Instr) : Prop := i.wellFormed = true → i.row.selects (encode i) = true

theorem selects_maskOp {w bits : Word} (h : packNibbles (fieldOp w) 0x0#4 0x0#4 0x0#4 = bits) :
    FormRow.selects ⟨bits, 0xF000#16⟩ w = true := by
  rw [FormRow.selects, and_maskOp, h]; exact beq_self_eq_true _

theorem selects_maskOpN {w bits : Word}
    (h : packNibbles (fieldOp w) 0x0#4 0x0#4 (fieldN w) = bits) :
    FormRow.selects ⟨bits, 0xF00F#16⟩ w = true := by
  rw [FormRow.selects, and_maskOpN, h]; exact beq_self_eq_true _

theorem selects_maskOpKK {w bits : Word} (h : packByte (fieldOp w) 0x0#4 (fieldKK w) = bits) :
    FormRow.selects ⟨bits, 0xF0FF#16⟩ w = true := by
  rw [FormRow.selects, and_maskOpKK, h]; exact beq_self_eq_true _

theorem clearScreen : Statement .clearScreen := fun _ => by decide

theorem returnFromProcedure : Statement .returnFromProcedure := fun _ => by decide

theorem jump (nnn : Addr12) : Statement (.jump nnn) := fun _ =>
  selects_maskOp (by rw [encode, fieldOp_packAddr]; rfl)

theorem jumpAndLink (nnn : Addr12) : Statement (.jumpAndLink nnn) := fun _ =>
  selects_maskOp (by rw [encode, fieldOp_packAddr]; rfl)

theorem skipIfEqualImm (x : Nibble) (kk : Byte) : Statement (.skipIfEqualImm x kk) := fun _ =>
  selects_maskOp (by rw [encode, fieldOp_packByte]; rfl)

theorem skipIfNotEqualImm (x : Nibble) (kk : Byte) : Statement (.skipIfNotEqualImm x kk) := fun _ =>
  selects_maskOp (by rw [encode, fieldOp_packByte]; rfl)

theorem skipIfEqualReg (x y : Nibble) : Statement (.skipIfEqualReg x y) := fun _ =>
  selects_maskOp (by rw [encode, fieldOp_packNibbles]; rfl)

theorem setRegister (x : Nibble) (kk : Byte) : Statement (.setRegister x kk) := fun _ =>
  selects_maskOp (by rw [encode, fieldOp_packByte]; rfl)

theorem addValueToRegister (x : Nibble) (kk : Byte) : Statement (.addValueToRegister x kk) := fun _ =>
  selects_maskOp (by rw [encode, fieldOp_packByte]; rfl)

theorem set (x y : Nibble) : Statement (.set x y) := fun _ =>
  selects_maskOpN (by rw [encode, fieldOp_packNibbles, fieldN_packNibbles]; rfl)

theorem or (x y : Nibble) : Statement (.or x y) := fun _ =>
  selects_maskOpN (by rw [encode, fieldOp_packNibbles, fieldN_packNibbles]; rfl)

theorem and (x y : Nibble) : Statement (.and x y) := fun _ =>
  selects_maskOpN (by rw [encode, fieldOp_packNibbles, fieldN_packNibbles]; rfl)

theorem xor (x y : Nibble) : Statement (.xor x y) := fun _ =>
  selects_maskOpN (by rw [encode, fieldOp_packNibbles, fieldN_packNibbles]; rfl)

theorem add (x y : Nibble) : Statement (.add x y) := fun _ =>
  selects_maskOpN (by rw [encode, fieldOp_packNibbles, fieldN_packNibbles]; rfl)

theorem sub (x y : Nibble) : Statement (.sub x y) := fun _ =>
  selects_maskOpN (by rw [encode, fieldOp_packNibbles, fieldN_packNibbles]; rfl)

theorem rShift (x y : Nibble) : Statement (.rShift x y) := fun _ =>
  selects_maskOpN (by rw [encode, fieldOp_packNibbles, fieldN_packNibbles]; rfl)

theorem rSub (x y : Nibble) : Statement (.rSub x y) := fun _ =>
  selects_maskOpN (by rw [encode, fieldOp_packNibbles, fieldN_packNibbles]; rfl)

theorem lShift (x y : Nibble) : Statement (.lShift x y) := fun _ =>
  selects_maskOpN (by rw [encode, fieldOp_packNibbles, fieldN_packNibbles]; rfl)

theorem skipIfNotEqualReg (x y : Nibble) : Statement (.skipIfNotEqualReg x y) := fun _ =>
  selects_maskOp (by rw [encode, fieldOp_packNibbles]; rfl)

theorem setIndex (nnn : Addr12) : Statement (.setIndex nnn) := fun _ =>
  selects_maskOp (by rw [encode, fieldOp_packAddr]; rfl)

theorem jumpWithOffset (x : Nibble) (nnn : Addr12) : Statement (.jumpWithOffset x nnn) := fun _ =>
  selects_maskOp (by rw [encode, fieldOp_packAddr]; rfl)

theorem randomAnd (x : Nibble) (kk : Byte) : Statement (.randomAnd x kk) := fun _ =>
  selects_maskOp (by rw [encode, fieldOp_packByte]; rfl)

theorem draw (x y n : Nibble) : Statement (.draw x y n) := fun _ =>
  selects_maskOp (by rw [encode, fieldOp_packNibbles]; rfl)

theorem skipIfKeyPressed (x : Nibble) : Statement (.skipIfKeyPressed x) := fun _ =>
  selects_maskOpKK (by rw [encode, fieldOp_packByte, fieldKK_packByte]; rfl)

theorem skipIfKeyNotPressed (x : Nibble) : Statement (.skipIfKeyNotPressed x) := fun _ =>
  selects_maskOpKK (by rw [encode, fieldOp_packByte, fieldKK_packByte]; rfl)

theorem getDelayTimer (x : Nibble) : Statement (.getDelayTimer x) := fun _ =>
  selects_maskOpKK (by rw [encode, fieldOp_packByte, fieldKK_packByte]; rfl)

theorem getKey (x : Nibble) : Statement (.getKey x) := fun _ =>
  selects_maskOpKK (by rw [encode, fieldOp_packByte, fieldKK_packByte]; rfl)

theorem setDelayTimer (x : Nibble) : Statement (.setDelayTimer x) := fun _ =>
  selects_maskOpKK (by rw [encode, fieldOp_packByte, fieldKK_packByte]; rfl)

theorem setSoundTimer (x : Nibble) : Statement (.setSoundTimer x) := fun _ =>
  selects_maskOpKK (by rw [encode, fieldOp_packByte, fieldKK_packByte]; rfl)

theorem addToIndex (x : Nibble) : Statement (.addToIndex x) := fun _ =>
  selects_maskOpKK (by rw [encode, fieldOp_packByte, fieldKK_packByte]; rfl)

theorem setIndexToFontCharacter (x : Nibble) : Statement (.setIndexToFontCharacter x) := fun _ =>
  selects_maskOpKK (by rw [encode, fieldOp_packByte, fieldKK_packByte]; rfl)

theorem doBCDConversion (x : Nibble) : Statement (.doBCDConversion x) := fun _ =>
  selects_maskOpKK (by rw [encode, fieldOp_packByte, fieldKK_packByte]; rfl)

theorem storeRegistersToMemory (x : Nibble) : Statement (.storeRegistersToMemory x) := fun _ =>
  selects_maskOpKK (by rw [encode, fieldOp_packByte, fieldKK_packByte]; rfl)

theorem loadRegistersFromMemory (x : Nibble) : Statement (.loadRegistersFromMemory x) := fun _ =>
  selects_maskOpKK (by rw [encode, fieldOp_packByte, fieldKK_packByte]; rfl)

theorem unsupported (w : Word) : Statement (.unsupported w) := fun _ => by
  simp [Instr.row, FormRow.selects]

end Sys2Proof.Laws.FormRowOfEncoding
end

