-- ==== Sys2Proof/Laws/Step.lean ====
section
/-! SUPPORT. What a step can do, said once: the cases of a cycle, of a move and of a step, and the one
induction over runs. -/

namespace Sys2Proof.Machine

/-- Everything a cycle can do (70_reset_and_hazards R250). -/
theorem cycle_cases (s : State) :
    (s.status ≠ .running ∧ cycle s = .next s)
      ∨ (s.status = .running ∧ s.stop = true ∧ cycle s = .next (s.setStatus .stopped))
      ∨ (s.status = .running ∧ s.stop = false ∧ s.queueDisconnected = true
          ∧ cycle s = .next (s.raise .keyQueueDisconnected none s.pc none))
      ∨ (s.status = .running ∧ s.stop = false ∧ s.queueDisconnected = false
          ∧ lastAddress ≤ s.pc.toNat
          ∧ cycle s = .next (s.drain.raise .fetchOutOfBounds (some s.pc) s.pc none))
      ∨ (s.status = .running ∧ s.stop = false ∧ s.queueDisconnected = false
          ∧ s.pc.toNat < lastAddress
          ∧ cycle s = exec
              (decode (wordOfBytes (s.byteAt s.pc.toNat) (s.byteAt (s.pc.toNat + 1))))
              s.drain.advancePc) := by
  unfold cycle
  cases hst : s.status with
  | stopped => exact .inl ⟨by simp, rfl⟩
  | faulted r => exact .inl ⟨by simp, rfl⟩
  | running =>
    cases hs : s.stop with
    | true => exact .inr (.inl ⟨rfl, rfl, rfl⟩)
    | false =>
      cases hq : s.queueDisconnected with
      | true => exact .inr (.inr (.inl ⟨rfl, rfl, rfl, rfl⟩))
      | false =>
        rcases s.fetch_cases with ⟨h1, h2⟩ | ⟨h1, h2⟩
        · exact .inr (.inr (.inr (.inr ⟨rfl, rfl, rfl, h1, by simp [h2]⟩)))
        · exact .inr (.inr (.inr (.inl ⟨rfl, rfl, rfl, h1, by simp [h2]⟩)))

/-- A step is a cycle when no move is scheduled, or the scheduled move. -/
theorem step_cases (s : State) :
    (s.schedule = [] ∧ step s = cycle s)
      ∨ ∃ m rest, s.schedule = m :: rest ∧ step s = perform m (s.setSchedule rest) := by
  unfold step
  cases s.schedule with
  | nil => exact .inl ⟨rfl, rfl⟩
  | cons m rest => exact .inr ⟨m, rest, rfl, rfl⟩

/-- A run of one step more, when the step answers a next state. -/
theorem run_succ_of_next (M : Host.Core) (n : Nat) {s u : M.State} (h : M.step s = .next u) :
    M.run (n + 1) s = M.run n u := by
  rw [Host.Core.run, h]

/-- What every step keeps from a state, every reachable state has. -/
theorem Reaches.keeps {P : State → Prop} (hP : ∀ s t, P s → step s = .next t → P t) {s t : State}
    (h : Reaches s t) (hs : P s) : P t := by
  induction h with
  | refl => exact hs
  | tail _ hu ih => exact hP _ _ ih hu

end Sys2Proof.Machine
end

