-- ==== Sys2Proof/Tests/Slice0.lean ====
section
/-! SUPPORT. The model's own tests: the WellFormed smoke, words written out bit by bit, one-step vectors of
95_test_vectors (each names its vector; the expected values are the spec's), and a witness for the hypotheses
of every obligation that has some. -/

namespace Sys2Proof.Tests

open Sys2Proof.Machine

/-! ### WellFormed: for each check an ill-formed term, refused -/

/-- 30_encoding R79: `x` is the top nibble of `nnn`, here 2. -/
theorem test_wellFormed_refuses_jumpWithOffset_mismatch :
    (Instr.jumpWithOffset 0x3#4 0x21A#12).wellFormed = false
      ∧ (Instr.jumpWithOffset 0x2#4 0x21A#12).wellFormed = true := by decide

/-- 30_encoding R76: `00E0` and `8120` are supported words, `812F` is not. -/
theorem test_wellFormed_refuses_supported_word_as_unsupported :
    (Instr.unsupported 0x00E0#16).wellFormed = false
      ∧ (Instr.unsupported 0x8120#16).wellFormed = false
      ∧ (Instr.unsupported 0xE19E#16).wellFormed = false
      ∧ (Instr.unsupported 0xF155#16).wellFormed = false
      ∧ (Instr.unsupported 0x1000#16).wellFormed = false
      ∧ (Instr.unsupported 0x812F#16).wellFormed = true := by decide

/-! ### Decoding: a word of every form, bit by bit from 30_encoding R71 and R74 -/

theorem test_decode_whole_words :
    decode 0b0000000011100000#16 = .clearScreen
      ∧ decode 0b0000000011101110#16 = .returnFromProcedure
      ∧ decode 0b0000000011100001#16 = .unsupported 0x00E1#16 := by decide

theorem test_decode_control :
    decode 0b0001101010111100#16 = .jump 0xABC#12
      ∧ decode 0b0010001100000001#16 = .jumpAndLink 0x301#12
      ∧ decode 0b0011101001000010#16 = .skipIfEqualImm 0xA#4 0x42#8
      ∧ decode 0b0100101001000011#16 = .skipIfNotEqualImm 0xA#4 0x43#8
      ∧ decode 0b0101000100101011#16 = .skipIfEqualReg 0x1#4 0x2#4
      ∧ decode 0b1001000100101111#16 = .skipIfNotEqualReg 0x1#4 0x2#4
      ∧ decode 0b1011001000011010#16 = .jumpWithOffset 0x2#4 0x21A#12 := by decide

theorem test_decode_immediate :
    decode 0b0110101000000010#16 = .setRegister 0xA#4 0x02#8
      ∧ decode 0b0111101000000011#16 = .addValueToRegister 0xA#4 0x03#8
      ∧ decode 0b1010111111111110#16 = .setIndex 0xFFE#12
      ∧ decode 0b1100000100001111#16 = .randomAnd 0x1#4 0x0F#8 := by decide

theorem test_decode_alu :
    decode 0b1000000100100000#16 = .set 0x1#4 0x2#4
      ∧ decode 0b1000000100100001#16 = .or 0x1#4 0x2#4
      ∧ decode 0b1000000100100010#16 = .and 0x1#4 0x2#4
      ∧ decode 0b1000000100100011#16 = .xor 0x1#4 0x2#4
      ∧ decode 0b1000000100100100#16 = .add 0x1#4 0x2#4
      ∧ decode 0b1000000100100101#16 = .sub 0x1#4 0x2#4
      ∧ decode 0b1000000100100110#16 = .rShift 0x1#4 0x2#4
      ∧ decode 0b1000000100100111#16 = .rSub 0x1#4 0x2#4
      ∧ decode 0b1000000100101110#16 = .lShift 0x1#4 0x2#4
      ∧ decode 0b1000000100101000#16 = .unsupported 0x8128#16 := by decide

theorem test_decode_draw_and_keys :
    decode 0b1101000100100101#16 = .draw 0x1#4 0x2#4 0x5#4
      ∧ decode 0b1110111110011110#16 = .skipIfKeyPressed 0xF#4
      ∧ decode 0b1110111110100001#16 = .skipIfKeyNotPressed 0xF#4
      ∧ decode 0b1110000110011111#16 = .unsupported 0xE19F#16 := by decide

theorem test_decode_misc :
    decode 0b1111001100000111#16 = .getDelayTimer 0x3#4
      ∧ decode 0b1111010100001010#16 = .getKey 0x5#4
      ∧ decode 0b1111001100010101#16 = .setDelayTimer 0x3#4
      ∧ decode 0b1111001100011000#16 = .setSoundTimer 0x3#4
      ∧ decode 0b1111001000011110#16 = .addToIndex 0x2#4
      ∧ decode 0b1111000100101001#16 = .setIndexToFontCharacter 0x1#4
      ∧ decode 0b1111000100110011#16 = .doBCDConversion 0x1#4
      ∧ decode 0b1111001001010101#16 = .storeRegistersToMemory 0x2#4
      ∧ decode 0b1111001001100101#16 = .loadRegistersFromMemory 0x2#4
      ∧ decode 0b1111000101110101#16 = .unsupported 0xF175#16 := by decide

/-- 20_memory R51: the byte at the lower address is the high byte. -/
theorem test_decode_bytes_big_endian :
    decodeBytes [0x6A#8, 0x02#8, 0x7A#8] = .ok (.setRegister 0xA#4 0x02#8, [0x7A#8])
      ∧ decodeBytes [0x6A#8] = .error .fewerThanTwoBytes
      ∧ decodeTableWord 16 0x7A03 = some (.addValueToRegister 0xA#4 0x03#8) := by decide

theorem test_encode_words :
    encode (.skipIfEqualReg 0x1#4 0x2#4) = 0x5120#16
      ∧ encode (.lShift 0x1#4 0x2#4) = 0x812E#16
      ∧ encode (.jumpWithOffset 0x2#4 0x21A#12) = 0xB21A#16
      ∧ encode (.draw 0x1#4 0x2#4 0x5#4) = 0xD125#16
      ∧ encode (.storeRegistersToMemory 0xF#4) = 0xFF55#16 := by decide

/-! ### One step on a small state -/

/-- The configuration of a vector: legacy or updated behaviour, `halt_on_invalid` false. -/
def legacy : Cfg := ⟨false, false⟩
def updated : Cfg := ⟨true, false⟩

/-- The reset state with some registers set. -/
def start (cfg : Cfg) (regs : List (Nibble × Byte)) : State :=
  regs.foldl (fun s r => s.setReg r.1 r.2) { State.reset with cfg := cfg }

/-- The state after one step, if there is one. -/
def after (s : State) : Option State :=
  match step s with
  | .next t => some t
  | .fault _ => none
  | .refused _ => none

/-- The conventions of 95_test_vectors: the word at `pc`, one cycle, one reading of the state after. -/
def oneCycle {α : Type} (s : State) (w : Nat) (read : State → α) : Option α :=
  (after (s.withFetchWord 16 w)).map read

/-- A fault record with its word. -/
def faulted (c : FaultCause) (info : Option Word) (atPc word : Word) : RunStatus :=
  .faulted ⟨c, info, atPc, some word⟩

/-- The lit columns of a row. -/
def litColumns (f : Frame) (row : Fin 32) : List Nat :=
  (List.finRange 64).filterMap (fun c => if f.pixel row c then some c.val else none)

/-! #### Control transfer (2.2) -/

/-- F1. -/
theorem test_jump : oneCycle (start legacy []) 0x1ABC State.pc = some 0x0ABC#16 := by decide

/-- F4. -/
theorem test_call : oneCycle (start legacy []) 0x2300 (fun t => (t.pc, t.stack))
    = some (0x0300#16, [0x0202#16]) := by decide

/-- F6. -/
theorem test_call_on_full_stack :
    oneCycle { start legacy [] with stack := List.replicate 16 0x0202#16 } 0x2300
      (fun t => (t.pc, t.stack.length, t.status))
    = some (0x0200#16, 16, faulted .stackOverflow none 0x0200#16 0x2300#16) := by decide

/-- F7. -/
theorem test_return :
    oneCycle { start legacy [] with stack := [0x0456#16, 0x0322#16] } 0x00EE
      (fun t => (t.pc, t.stack)) = some (0x0322#16, [0x0456#16]) := by decide

/-- Y6: the drain stands, the rest is as before. -/
theorem test_return_on_empty_stack :
    oneCycle { start legacy [] with keyQueue := [⟨0x2#4, true⟩] } 0x00EE
      (fun t => (t.pc, t.keys, t.status))
    = some (0x0200#16, 0x0004#16, faulted .stackUnderflow none 0x0200#16 0x00EE#16) := by decide

/-- F9, F10. -/
theorem test_skipIfEqualImm :
    oneCycle (start legacy [(0xA#4, 0x42#8)]) 0x3A42 State.pc = some 0x0204#16
      ∧ oneCycle (start legacy [(0xA#4, 0x43#8)]) 0x3A42 State.pc = some 0x0202#16 := by decide

/-- F11, F12. -/
theorem test_skipIfNotEqualImm :
    oneCycle (start legacy [(0xA#4, 0x42#8)]) 0x4A42 State.pc = some 0x0202#16
      ∧ oneCycle (start legacy [(0xA#4, 0x43#8)]) 0x4A42 State.pc = some 0x0204#16 := by decide

/-- F14, F15 (the low nibble is ignored). -/
theorem test_skipIfEqualReg :
    oneCycle (start legacy [(0x1#4, 7#8), (0x2#4, 8#8)]) 0x5120 State.pc = some 0x0202#16
      ∧ oneCycle (start legacy [(0x1#4, 7#8), (0x2#4, 7#8)]) 0x512B State.pc
        = some 0x0204#16 := by decide

/-- F16, F18. -/
theorem test_skipIfNotEqualReg :
    oneCycle (start legacy [(0x1#4, 7#8), (0x2#4, 7#8)]) 0x9120 State.pc = some 0x0202#16
      ∧ oneCycle (start legacy [(0x1#4, 7#8), (0x2#4, 8#8)]) 0x912F State.pc
        = some 0x0204#16 := by decide

/-- F20. -/
theorem test_jumpWithOffset_quirk :
    oneCycle (start legacy [(0x0#4, 0x10#8), (0x3#4, 0x20#8)]) 0xB300 State.pc = some 0x0310#16
      ∧ oneCycle (start updated [(0x0#4, 0x10#8), (0x3#4, 0x20#8)]) 0xB300 State.pc
        = some 0x0320#16 := by decide

/-- F21: the sum is not reduced. -/
theorem test_jumpWithOffset_top :
    oneCycle (start legacy [(0x0#4, 0xFF#8), (0xF#4, 0x01#8)]) 0xBFFF State.pc = some 0x10FE#16
      ∧ oneCycle (start updated [(0x0#4, 0xFF#8), (0xF#4, 0x01#8)]) 0xBFFF State.pc
        = some 0x1000#16 := by decide

/-- F25: an odd `pc` is legal; F22: the last legal fetches. -/
theorem test_fetch_at_odd_pc :
    oneCycle { start legacy [] with pc := 0x0201#16 } 0x3000 State.pc = some 0x0205#16
      ∧ oneCycle { start legacy [] with pc := 0x0FFD#16 } 0x3000 State.pc
        = some 0x1001#16 := by decide

/-! #### Registers and ALU (2.3) -/

/-- A2. -/
theorem test_setRegister : oneCycle (start legacy []) 0x6FFF (fun t => t.reg 0xF#4) = some 0xFF#8 := by
  decide

/-- A5: wrap, no carry written. -/
theorem test_addValueToRegister :
    oneCycle (start legacy [(0xA#4, 0x02#8), (0xF#4, 0x77#8)]) 0x7AFF
      (fun t => (t.reg 0xA#4, t.reg 0xF#4)) = some (0x01#8, 0x77#8) := by decide

/-- A7 to A10. -/
theorem test_copy_and_logic :
    oneCycle (start legacy [(0x1#4, 0x01#8), (0x2#4, 0xAB#8), (0xF#4, 0x09#8)]) 0x8120
        (fun t => (t.reg 0x1#4, t.reg 0x2#4, t.reg 0xF#4)) = some (0xAB#8, 0xAB#8, 0x09#8)
      ∧ oneCycle (start legacy [(0x1#4, 0x0C#8), (0x2#4, 0x0A#8), (0xF#4, 0x09#8)]) 0x8121
        (fun t => (t.reg 0x1#4, t.reg 0xF#4)) = some (0x0E#8, 0x09#8)
      ∧ oneCycle (start legacy [(0x1#4, 0x0C#8), (0x2#4, 0x0A#8), (0xF#4, 0x09#8)]) 0x8122
        (fun t => (t.reg 0x1#4, t.reg 0xF#4)) = some (0x08#8, 0x09#8)
      ∧ oneCycle (start legacy [(0x1#4, 0x0C#8), (0x2#4, 0x0A#8), (0xF#4, 0x09#8)]) 0x8123
        (fun t => (t.reg 0x1#4, t.reg 0xF#4)) = some (0x06#8, 0x09#8) := by decide

/-- A12, A13. -/
theorem test_add :
    oneCycle (start legacy [(0x1#4, 0xC8#8), (0x2#4, 0x64#8)]) 0x8124
        (fun t => (t.reg 0x1#4, t.reg 0xF#4)) = some (0x2C#8, 0x01#8)
      ∧ oneCycle (start legacy [(0x1#4, 0xC8#8), (0x2#4, 0x37#8), (0xF#4, 0x01#8)]) 0x8124
        (fun t => (t.reg 0x1#4, t.reg 0xF#4)) = some (0xFF#8, 0x00#8) := by decide

/-- A16: the flag over the result; A18: `vF` read as a source first. -/
theorem test_add_with_vF :
    oneCycle (start legacy [(0xF#4, 0xF0#8), (0x1#4, 0x20#8)]) 0x8F14 (fun t => t.reg 0xF#4)
        = some 0x01#8
      ∧ oneCycle (start legacy [(0x1#4, 0xFF#8), (0xF#4, 0x02#8)]) 0x81F4
        (fun t => (t.reg 0x1#4, t.reg 0xF#4)) = some (0x01#8, 0x01#8) := by decide

/-- A22, A23. -/
theorem test_sub :
    oneCycle (start legacy [(0x1#4, 0x03#8), (0x2#4, 0x0A#8), (0xF#4, 0x01#8)]) 0x8125
        (fun t => (t.reg 0x1#4, t.reg 0xF#4)) = some (0xF9#8, 0x00#8)
      ∧ oneCycle (start legacy [(0x1#4, 0x07#8), (0x2#4, 0x07#8)]) 0x8125
        (fun t => (t.reg 0x1#4, t.reg 0xF#4)) = some (0x00#8, 0x01#8) := by decide

/-- A27, A30b. -/
theorem test_rSub :
    oneCycle (start legacy [(0x1#4, 0x03#8), (0x2#4, 0x0A#8)]) 0x8127
        (fun t => (t.reg 0x1#4, t.reg 0xF#4)) = some (0x07#8, 0x01#8)
      ∧ oneCycle (start legacy [(0xF#4, 0x05#8), (0x1#4, 0x03#8)]) 0x8F17 (fun t => t.reg 0xF#4)
        = some 0x00#8 := by decide

/-- A31. -/
theorem test_rShift_quirk :
    oneCycle (start legacy [(0x1#4, 0x05#8), (0x2#4, 0x82#8)]) 0x8126
        (fun t => (t.reg 0x1#4, t.reg 0x2#4, t.reg 0xF#4)) = some (0x41#8, 0x82#8, 0x00#8)
      ∧ oneCycle (start updated [(0x1#4, 0x05#8), (0x2#4, 0x82#8)]) 0x8126
        (fun t => (t.reg 0x1#4, t.reg 0x2#4, t.reg 0xF#4)) = some (0x02#8, 0x82#8, 0x01#8) := by
  decide

/-- A32. -/
theorem test_lShift_quirk :
    oneCycle (start legacy [(0x1#4, 0x05#8), (0x2#4, 0x82#8)]) 0x812E
        (fun t => (t.reg 0x1#4, t.reg 0xF#4)) = some (0x04#8, 0x01#8)
      ∧ oneCycle (start updated [(0x1#4, 0x05#8), (0x2#4, 0x82#8)]) 0x812E
        (fun t => (t.reg 0x1#4, t.reg 0xF#4)) = some (0x0A#8, 0x00#8) := by decide

/-- A40 for every random byte: the next free byte, masked, and the draw counted. -/
theorem test_randomAnd :
    oneCycle (start legacy []) 0xC10F (fun t => (t.reg 0x1#4, t.draws))
      = some (Config.rnd 0 &&& 0x0F#8, 1) := by rfl

/-! #### Display (2.4) -/

/-- G1. -/
theorem test_clearScreen :
    oneCycle { start legacy [(0xF#4, 0x01#8)] with fb := blankFrame.setPixel 31 63 true } 0x00E0
      (fun t => (litColumns t.fb 31, t.reg 0xF#4)) = some ([], 0x01#8) := by decide

/-- G3 and R145: clipped at the corner; G4: the same again. -/
theorem test_draw_clips :
    oneCycle { start legacy [(0x1#4, 62#8), (0x2#4, 31#8)] with
        i := 0x300#16, mem := [(0x300, 0xF0#8), (0x301, 0x90#8)] } 0xD122
        (fun t => (litColumns t.fb 31, litColumns t.fb 0, t.reg 0xF#4)) = some ([62, 63], [], 0x00#8)
      ∧ oneCycle { start legacy [(0x1#4, 62#8), (0x2#4, 31#8)] with
        i := 0x300#16, mem := [(0x300, 0xF0#8), (0x301, 0x90#8)]
        fb := (blankFrame.setPixel 31 62 true).setPixel 31 63 true } 0xD122
        (fun t => (litColumns t.fb 31, t.reg 0xF#4)) = some ([], 0x01#8) := by decide

/-- G13: a row on the screen past the end of memory. -/
theorem test_draw_out_of_memory :
    oneCycle { start legacy [(0xF#4, 0x01#8)] with
        i := 0xFFE#16, mem := [(0xFFE, 0x80#8), (0xFFF, 0x80#8)] } 0xD123
        (fun t => (t.pc, litColumns t.fb 0, t.reg 0xF#4, t.status))
      = some (0x0200#16, [], 0x01#8,
          faulted .memoryOutOfBounds (some 0x1000#16) 0x0200#16 0xD123#16) := by decide

/-! #### Keyboard (2.5) -/

/-- K2, K7. -/
theorem test_skipIfKeyPressed :
    oneCycle { start legacy [(0x1#4, 0x05#8)] with keys := 0xFFDF#16 } 0xE19E State.pc
        = some 0x0202#16
      ∧ oneCycle { start legacy [(0x1#4, 0x05#8)] with keyQueue := [⟨0x5#4, true⟩] } 0xE19E
        (fun t => (t.pc, t.keys, t.keyQueue)) = some (0x0204#16, 0x0020#16, []) := by decide

/-- K6 (an index above `0xF`), K8b. -/
theorem test_skipIfKeyNotPressed :
    oneCycle { start legacy [(0x1#4, 0x15#8)] with keys := 0xFFFF#16 } 0xE1A1 State.pc
        = some 0x0204#16
      ∧ oneCycle { start legacy [(0x1#4, 0x05#8)] with
          keys := 0x0020#16, keyQueue := [⟨0x5#4, false⟩] } 0xE1A1
        (fun t => (t.pc, t.keys)) = some (0x0204#16, 0x0000#16) := by decide

/-- K9: rewound. -/
theorem test_getKey_waits :
    oneCycle (start legacy [(0x5#4, 0xEE#8)]) 0xF50A (fun t => (t.pc, t.reg 0x5#4))
      = some (0x0200#16, 0xEE#8) := by decide

/-- K10, K11 (the lowest index). -/
theorem test_getKey_completes :
    oneCycle { start legacy [(0x5#4, 0xEE#8)] with keyQueue := [⟨0x9#4, true⟩] } 0xF50A
        (fun t => (t.pc, t.reg 0x5#4, t.keys)) = some (0x0202#16, 0x09#8, 0x0200#16)
      ∧ oneCycle { start legacy [(0x5#4, 0xEE#8)] with keys := 0x0408#16 } 0xF50A
        (fun t => (t.pc, t.reg 0x5#4)) = some (0x0202#16, 0x03#8) := by decide

/-! #### Timers (2.6) -/

/-- T1, T2, T3. -/
theorem test_timer_accesses :
    oneCycle { start legacy [] with delayTimer := 42#8 } 0xF307
        (fun t => (t.reg 0x3#4, t.delayTimer)) = some (0x2A#8, 42#8)
      ∧ oneCycle { start legacy [(0x3#4, 0x3C#8)] with delayTimer := 5#8 } 0xF315
        (fun t => (t.delayTimer, t.soundTimer)) = some (60#8, 0#8)
      ∧ oneCycle (start legacy [(0x3#4, 0x3C#8)]) 0xF318
        (fun t => (t.soundTimer, t.soundActive, t.delayTimer)) = some (60#8, true, 0#8) := by decide

/-- T12 first tick; T13 after `shutdown`; T14 after a stop. -/
theorem test_tick :
    (after { start legacy [] with delayTimer := 3#8, soundTimer := 1#8, schedule := [.tick] }).map
        (fun t => (t.delayTimer, t.soundTimer, t.soundActive)) = some (2#8, 0#8, false)
      ∧ (after { start legacy [] with
          delayTimer := 5#8, timerRunning := false, schedule := [.tick] }).map
        State.delayTimer = some 5#8
      ∧ (after { start legacy [] with
          delayTimer := 5#8, status := .stopped, schedule := [.tick] }).map
        State.delayTimer = some 4#8 := by decide

/-! #### Index and memory (2.7) -/

/-- I1. -/
theorem test_setIndex :
    oneCycle { start legacy [] with i := 0xFFFF#16 } 0xA123 State.i = some 0x0123#16 := by decide

/-- I5. -/
theorem test_addToIndex_overflow :
    oneCycle { start legacy [(0x2#4, 0x01#8)] with i := 0x0FFF#16 } 0xF21E
        (fun t => (t.i, t.reg 0xF#4)) = some (0x1000#16, 0x00#8)
      ∧ oneCycle { start updated [(0x2#4, 0x01#8)] with i := 0x0FFF#16 } 0xF21E
        (fun t => (t.i, t.reg 0xF#4)) = some (0x0000#16, 0x01#8) := by decide

/-- I7 (the flag is not cleared), I8 (legacy wrap at 2^16). -/
theorem test_addToIndex_flag_and_wrap :
    oneCycle { start updated [(0x2#4, 0x20#8), (0xF#4, 0x01#8)] with i := 0x0100#16 } 0xF21E
        (fun t => (t.i, t.reg 0xF#4)) = some (0x0120#16, 0x01#8)
      ∧ oneCycle { start legacy [(0x2#4, 0x02#8)] with i := 0xFFFF#16 } 0xF21E
        (fun t => (t.i, t.reg 0xF#4)) = some (0x0001#16, 0x00#8) := by decide

/-- I12, I15. -/
theorem test_setIndexToFontCharacter :
    oneCycle (start legacy [(0x1#4, 0x0A#8)]) 0xF129 State.i = some 0x0082#16
      ∧ oneCycle (start legacy [(0x1#4, 0xFF#8)]) 0xF129 State.i = some 0x054B#16 := by decide

/-- I18: the last legal position. -/
theorem test_bcd :
    oneCycle { start legacy [(0x1#4, 0xFF#8)] with i := 0xFFD#16 } 0xF133
      (fun t => (t.byteAt 0xFFD, t.byteAt 0xFFE, t.byteAt 0xFFF, t.i))
    = some (0x02#8, 0x05#8, 0x05#8, 0xFFD#16) := by decide

/-- I19. -/
theorem test_bcd_out_of_memory :
    oneCycle { start legacy [(0x1#4, 0x07#8)] with i := 0xFFE#16 } 0xF133
      (fun t => (t.byteAt 0xFFE, t.byteAt 0xFFF, t.pc, t.status))
    = some (0x00#8, 0x00#8, 0x0200#16,
        faulted .memoryOutOfBounds (some 0x1000#16) 0x0200#16 0xF133#16) := by decide

/-- I21. -/
theorem test_store_quirk :
    oneCycle { start legacy [(0#4, 0x11#8), (1#4, 0x22#8), (2#4, 0x33#8), (3#4, 0x44#8)] with
        i := 0x300#16 } 0xF255
        (fun t => (t.byteAt 0x300, t.byteAt 0x301, t.byteAt 0x302, t.byteAt 0x303, t.i))
      = some (0x11#8, 0x22#8, 0x33#8, 0x00#8, 0x0303#16)
      ∧ oneCycle { start updated [(0#4, 0x11#8)] with i := 0x300#16 } 0xF255 State.i
      = some 0x0300#16 := by decide

/-- I24; I25. -/
theorem test_store_at_the_end :
    oneCycle { start legacy [] with i := 0xFF1#16 } 0xFF55 (fun t => (t.i, t.status))
      = some (0x0FF1#16, faulted .memoryOutOfBounds (some 0x1000#16) 0x0200#16 0xFF55#16)
      ∧ oneCycle { start legacy [(0#4, 0x77#8)] with i := 0xFFF#16 } 0xF055
        (fun t => (t.byteAt 0xFFF, t.i)) = some (0x77#8, 0x1000#16) := by decide

/-- I27. -/
theorem test_load_quirk :
    oneCycle { start legacy [(3#4, 0x44#8)] with
        i := 0x300#16
        mem := [(0x300, 0xDE#8), (0x301, 0xAD#8), (0x302, 0xBE#8), (0x303, 0xEF#8)] } 0xF265
        (fun t => (t.reg 0#4, t.reg 1#4, t.reg 2#4, t.reg 3#4, t.i))
      = some (0xDE#8, 0xAD#8, 0xBE#8, 0x44#8, 0x0303#16)
      ∧ oneCycle { start updated [] with i := 0x050#16 } 0xF065 (fun t => (t.reg 0#4, t.i))
      = some (0xF0#8, 0x0050#16) := by decide

/-- I30: precise. -/
theorem test_load_out_of_memory :
    oneCycle { start legacy [(0#4, 0x05#8), (1#4, 0x06#8)] with i := 0xFFF#16 } 0xF165
      (fun t => (t.reg 0#4, t.reg 1#4, t.i, t.status))
    = some (0x05#8, 0x06#8, 0x0FFF#16,
        faulted .memoryOutOfBounds (some 0x1000#16) 0x0200#16 0xF165#16) := by decide

/-! #### Unsupported (2.8) and the cycle (2.9) -/

/-- U1, U2. -/
theorem test_unsupported :
    oneCycle (start legacy []) 0xF175 (fun t => (t.pc, t.status)) = some (0x0202#16, .running)
      ∧ oneCycle (start ⟨false, true⟩ []) 0xF175 (fun t => (t.pc, t.status))
      = some (0x0200#16, faulted .invalidOpcode (some 0xF175#16) 0x0200#16 0xF175#16) := by decide

/-- Y4 (stop first, with Y1's queue), Y3. -/
theorem test_cycle_stop_and_disconnection :
    (after { start legacy [] with
        stop := true, queueDisconnected := true, keyQueue := [⟨5#4, true⟩] }).map
        (fun t => (t.status, t.keys, t.pc)) = some (.stopped, 0x0000#16, 0x0200#16)
      ∧ (after { start legacy [] with
        queueDisconnected := true, keyQueue := [⟨5#4, true⟩] }).map
        (fun t => (t.status, t.keys, t.pc))
      = some (.faulted ⟨.keyQueueDisconnected, none, 0x0200#16, none⟩, 0x0000#16, 0x0200#16) := by
  decide

/-- Y5: the drain stands. -/
theorem test_cycle_fetch_out_of_bounds :
    (after { start legacy [] with pc := 0x0FFF#16, keyQueue := [⟨5#4, true⟩] }).map
        (fun t => (t.status, t.keys, t.pc))
      = some (.faulted ⟨.fetchOutOfBounds, some 0x0FFF#16, 0x0FFF#16, none⟩, 0x0020#16,
          0x0FFF#16) := by decide

/-- P1's image, loaded by a boot move; the codes of 60_exceptions R207. -/
theorem test_boot :
    (after { start legacy [(0xA#4, 0x55#8)] with
        schedule := [.boot updated [0x00#8, 0xE0#8, 0x6A#8, 0x02#8]] }).map
        (fun t => (t.pc, t.byteAt 0x201, t.byteAt 0x203, t.byteAt 0x050, t.reg 0xA#4, t.cfg))
      = some (0x0200#16, 0xE0#8, 0x02#8, 0xF0#8, 0x00#8, updated)
      ∧ [FaultCause.invalidOpcode, .stackUnderflow, .stackOverflow, .fetchOutOfBounds,
          .memoryOutOfBounds, .keyQueueDisconnected].map FaultCause.code
        = [1, 2, 3, 4, 5, 6] := by decide

/-! ### Witnesses: a state and operands that meet the hypotheses of each obligation that has some -/

/-- EncodeThenDecodeIsIdentity: the two forms whose well-formedness is a condition, at their ends. -/
theorem witness_encodeThenDecode :
    (Instr.jumpWithOffset 0xF#4 0xFFF#12).wellFormed = true
      ∧ (Instr.jumpWithOffset 0x0#4 0x000#12).wellFormed = true
      ∧ (Instr.unsupported 0xFFFF#16).wellFormed = true
      ∧ (Instr.unsupported 0x0000#16).wellFormed = true := by decide

/-- EachWordSelectsExactlyItsRow: one word of each clause, neighbours. -/
theorem witness_eachWordSelectsItsRow :
    decode 0x800E#16 ≠ .unsupported 0x800E#16 ∧ decode 0x800F#16 = .unsupported 0x800F#16 := by
  decide

/-- StepTakesTheNextScheduledMove: both clauses. -/
theorem witness_stepTakesTheNextScheduledMove :
    State.reset.schedule = []
      ∧ ({ State.reset with schedule := [.tick, .cycle] } : State).schedule = .tick :: [.cycle] := by
  decide

/-- StepRunsTheDecodedInstruction: the last legal fetch address, with an empty schedule and with a
scheduled cycle. -/
theorem witness_stepRunsTheDecodedInstruction :
    ∃ s : State, s.schedule = [] ∧ s.status = .running ∧ s.stop = false
      ∧ s.queueDisconnected = false ∧ s.pc.toNat = 0xFFE
      ∧ decode (wordOfBytes (s.byteAt s.pc.toNat) (s.byteAt (s.pc.toNat + 1)))
        = .setRegister 0xA#4 0x02#8
      ∧ (s.setSchedule [.cycle, .tick]).schedule = .cycle :: [.tick] :=
  ⟨{ State.reset with pc := 0xFFE#16, mem := [(0xFFE, 0x6A#8), (0xFFF, 0x02#8)] }, by decide⟩

/-- CycleChecksStopThenQueueThenFetch: a state for each clause, the third at `0xFFF`. -/
theorem witness_cycleChecks :
    (∃ s : State, s.status = .running ∧ s.stop = true)
      ∧ (∃ s : State, s.status = .running ∧ s.stop = false ∧ s.queueDisconnected = true)
      ∧ ∃ s : State, s.status = .running ∧ s.stop = false ∧ s.queueDisconnected = false
          ∧ s.pc.toNat = 0xFFF :=
  ⟨⟨{ State.reset with stop := true }, by decide⟩,
    ⟨{ State.reset with queueDisconnected := true }, by decide⟩,
    ⟨{ State.reset with pc := 0xFFF#16 }, by decide⟩⟩

/-- EndedRunChangesNothingUntilReset: a stopped run whose next move is a tick. -/
theorem witness_endedRun :
    ∃ s t : State, s.ended ∧ step s = .next t
      ∧ ∀ cfg rom, s.schedule.head? ≠ some (.boot cfg rom) :=
  ⟨{ State.reset with status := .stopped, schedule := [.tick] }, _, (by intro h; cases h), rfl,
    (by intro _ _ h; cases h)⟩

/-- TickLowersBothCountersAndNothingElse, CountdownHoldsMaxOfDifferenceAndZero: one counter above the number
of ticks and one below. -/
theorem witness_ticks :
    ∃ s t : State, s.timerRunning = true ∧ t = State.tick^[2] s
      ∧ s.delayTimer = 1#8 ∧ s.soundTimer = 3#8 :=
  ⟨{ State.reset with delayTimer := 1#8, soundTimer := 3#8 }, _, rfl, rfl, rfl, rfl⟩

/-- ShutdownEndsTickingUntilReset: the timer agent stopped, and a move that is neither a boot nor a
shutdown, with its next state. -/
theorem witness_shutdown :
    ∃ s t : State, s.timerRunning = false ∧ perform .cycle s = .next t
      ∧ (∀ cfg rom, Move.cycle ≠ .boot cfg rom) ∧ Move.cycle ≠ .shutdown :=
  ⟨{ State.reset with timerRunning := false }, _, rfl, rfl, (by intro _ _ h; cases h), by decide⟩

/-- ResetEntersAtTheFirstImageBytes, BootLeavesTheMemoryMap, BootClearsTheRestOfTheState: an image of the
greatest length, and one byte more. -/
theorem witness_boot :
    (0x12#8 :: 0x00#8 :: List.replicate 3582 0xFF#8).length ≤ 3584
      ∧ 3584 < (List.replicate 3585 0xFF#8).length := by
  simp only [List.length_cons, List.length_replicate]
  decide

/-- A state at every bound of the invariant. -/
def atTheBounds : State :=
  { State.reset with
    cfg := updated
    pc := 0x10FE#16
    i := 0x0FFF#16
    stack := List.replicate 16 0x1000#16
    mem := [(0x000, 0x01#8), (0xFFF, 0x01#8)] }

/-- EveryStepKeepsTheInvariant. -/
theorem witness_everyStepKeepsTheInvariant :
    atTheBounds.Inv ∧ ∃ t : State, step atTheBounds = .next t :=
  ⟨⟨by decide, by decide, fun a ha => by rw [List.eq_of_mem_replicate ha]; decide, by decide,
    by decide, by intro r h; cases h⟩, _, rfl⟩

/-- EveryStepKeepsTheInvariant, the clause on the fault record: I19 after its fault, the lowest offending
address one past the end. -/
theorem witness_everyStepKeepsTheInvariant_faulted :
    ∃ s t : State, s.Inv ∧ step s = .next t
      ∧ s.status = faulted .memoryOutOfBounds (some 0x1000#16) 0x0200#16 0xF133#16 :=
  ⟨{ State.reset with
      i := 0x0FFE#16
      status := faulted .memoryOutOfBounds (some 0x1000#16) 0x0200#16 0xF133#16 }, _,
    ⟨by decide, by decide, (fun _ h => by cases h), by decide, by decide, by
      intro r h
      cases h
      exact ⟨⟨⟨0x1000#16, rfl, by decide⟩, 0xF133#16, rfl, .inr (.inl ⟨0x1#4, by decide⟩)⟩, rfl⟩⟩,
    rfl, rfl⟩

/-- ConfigurationChangesOnlyAtReset: a boot that changes the configuration, and a tick. -/
theorem witness_configurationChanges :
    (∃ s t : State, step s = .next t ∧ s.schedule.head? = some (.boot updated [])
        ∧ s.cfg = legacy)
      ∧ ∃ s t : State, step s = .next t ∧ ∀ cfg rom, s.schedule.head? ≠ some (.boot cfg rom) :=
  ⟨⟨{ State.reset with schedule := [.boot updated []] }, _, rfl, by decide⟩,
    ⟨{ State.reset with schedule := [.tick] }, _, rfl, by intro _ _ h; cases h⟩⟩

/-- FaultsAreTheListedOnesAndPrecise: an instruction that faults, at the first bad address, and one that
does not, at the last good one. -/
theorem witness_faults :
    (∃ s t : State, s.status = .running ∧ exec (.doBCDConversion 0x1#4) s = .next t
        ∧ faultWhen s (.doBCDConversion 0x1#4) = some (.memoryOutOfBounds, some 0x1000#16))
      ∧ ∃ s t : State, s.status = .running ∧ exec (.doBCDConversion 0x1#4) s = .next t
        ∧ faultWhen s (.doBCDConversion 0x1#4) = none :=
  ⟨⟨{ State.reset with i := 0xFFE#16 }, _, rfl, rfl, by decide⟩,
    ⟨{ State.reset with i := 0xFFD#16 }, _, rfl, rfl, by decide⟩⟩

/-- The statements on what may write a field: an instruction that is not one of the writers, with its next
state, for each. -/
theorem witness_onlyWriters :
    ∃ s t : State, exec (.loadRegistersFromMemory 0x1#4) s = .next t
      ∧ Instr.loadRegistersFromMemory 0x1#4 ≠ .clearScreen
      ∧ (∀ x y n, Instr.loadRegistersFromMemory 0x1#4 ≠ .draw x y n)
      ∧ (∀ x, Instr.loadRegistersFromMemory 0x1#4 ≠ .doBCDConversion x)
      ∧ (∀ x, Instr.loadRegistersFromMemory 0x1#4 ≠ .storeRegistersToMemory x)
      ∧ (∀ x kk, Instr.loadRegistersFromMemory 0x1#4 ≠ .randomAnd x kk)
      ∧ (Instr.loadRegistersFromMemory 0x1#4).mayWrite false 0x2#4 = false
      ∧ (Instr.loadRegistersFromMemory 0x1#4).mayWrite false 0x1#4 = true :=
  ⟨{ State.reset with i := 0xFFE#16 }, _, rfl, by decide⟩

/-- OnlyBcdAndStoreWriteMemory: addresses just outside the stored bytes. -/
theorem witness_onlyBcdAndStore :
    ∃ s t u : State, exec (.doBCDConversion 0x1#4) s = .next t
      ∧ exec (.storeRegistersToMemory 0xF#4) s = .next u
      ∧ 0x2FF < s.i.toNat ∧ s.i.toNat + 2 < 0x303 ∧ s.i.toNat + (0xF#4).toNat < 0x310 :=
  ⟨{ State.reset with i := 0x300#16 }, _, _, rfl, rfl, by decide⟩

/-- QuirkFlagTouchesSixInstructions. -/
theorem witness_quirkFlag :
    ∃ s t : State, (Instr.draw 0x1#4 0x2#4 0xF#4).quirk = false
      ∧ exec (.draw 0x1#4 0x2#4 0xF#4) s = .next t := ⟨State.reset, _, rfl, rfl⟩

/-- MemoriesThatReadAlikeAreEqual: memories in canonical form, one of them at both ends. -/
theorem witness_memoriesThatReadAlike :
    Memory.wf [(0x000, 0x01#8), (0x050, 0x00#8), (0xFFF, 0x01#8)]
      ∧ ¬Memory.wf [(0x050, 0xF0#8)] ∧ ¬Memory.wf [(0x1000, 0x01#8)]
      ∧ ∃ m m' : Memory, m.wf ∧ m'.wf ∧ ∀ a, m.read a = m'.read a :=
  ⟨by decide, by decide, by decide, [(0x000, 0x01#8)], [(0x000, 0x01#8)], by decide, by decide,
    fun _ => rfl⟩

/-- StoredBytesAreFetchedAtOnce: the last two bytes of memory. -/
theorem witness_storedBytes :
    ∃ (s t : State) (a : Word), exec (.storeRegistersToMemory 0xF#4) s = .next t
      ∧ s.i.toNat + (0xF#4).toNat = 0xFFF ∧ s.i.toNat ≤ a.toNat
      ∧ a.toNat + 1 = s.i.toNat + (0xF#4).toNat :=
  ⟨{ State.reset with i := 0xFF0#16 }, _, 0xFFE#16, rfl, by decide⟩

/-- CallPushesTheAddressAfterIt: fifteen entries, and sixteen. -/
theorem witness_call :
    (∃ s : State, s.stack.length = 15) ∧ ∃ s : State, s.stack.length = 16 :=
  ⟨⟨{ State.reset with stack := List.replicate 15 0x0202#16 }, by decide⟩,
    ⟨{ State.reset with stack := List.replicate 16 0x0202#16 }, by decide⟩⟩

/-- ReturnPopsTheNewestAddress: one entry, and none. -/
theorem witness_return :
    (∃ (s : State) (rest : List Word) (a : Word), s.stack = rest ++ [a]) ∧ State.reset.stack = [] :=
  ⟨⟨{ State.reset with stack := [0x1000#16] }, [], 0x1000#16, rfl⟩, rfl⟩

/-- SkipsCompareAndMoveByFour, UnsupportedHaltsOrDoesNothing: an instruction fetched at the last legal
address, under both settings of `halt_on_invalid`. -/
theorem witness_fetchedAt :
    ∃ s u : State, s.pc = 0x0FFE#16 + 2#16 ∧ s.cfg.haltOnInvalid = true
      ∧ u.pc = 0x0FFE#16 + 2#16 ∧ u.cfg.haltOnInvalid = false :=
  ⟨{ start ⟨false, true⟩ [] with pc := 0x1000#16 }, { start legacy [] with pc := 0x1000#16 },
    by decide⟩

/-- ShiftsMoveOneBitIntoTheFlag, RandomAndMasksAFreshByte, AddToIndexWrapsAsTheQuirkSays: the operand under
each behaviour, the empty mask, the sum on either side of `0xFFF`. -/
theorem witness_operands :
    ∃ s u : State, s.cfg.isNewChip8 = true ∧ u.cfg.isNewChip8 = false
      ∧ 0x81 = (if s.cfg.isNewChip8 = true then s.reg 0x1#4 else s.reg 0x2#4).toNat
      ∧ 0x7E = (if u.cfg.isNewChip8 = true then u.reg 0x1#4 else u.reg 0x2#4).toNat
      ∧ 0x1000 = s.i.toNat + (s.reg 0x0#4).toNat ∧ 0x10000 = u.i.toNat + (u.reg 0x0#4).toNat
      ∧ (0x00#8 : Byte) = 0x00#8 :=
  ⟨{ start updated [(0x0#4, 0x01#8), (0x1#4, 0x81#8)] with i := 0x0FFF#16 },
    { start legacy [(0x0#4, 0x01#8), (0x2#4, 0x7E#8)] with i := 0xFFFF#16 }, by decide⟩

/-- DrawXorsTheSpriteAndReportsCollision: the lowest row on the screen in the last byte of memory. -/
theorem witness_draw :
    ∃ s : State, (∀ k, k < (0xF#4).toNat → (s.reg 0x2#4).toNat + k < 32 → s.i.toNat + k ≤ 0xFFF)
      ∧ s.i.toNat + 1 = 0xFFF :=
  ⟨{ start legacy [(0x2#4, 30#8)] with i := 0xFFE#16 }, by
    constructor
    · intro k _ hk
      have h : (30 : Nat) + k < 32 := hk
      show 0xFFE + k ≤ 0xFFF
      omega
    · decide⟩

/-- DrawingTwiceRestoresTheFrameBuffer: both clauses of its condition; the second is G16. -/
theorem witness_drawingTwice :
    (∃ s t : State, (∀ k, k < (0x1#4).toNat → (s.reg 0x2#4).toNat + k < 32 → s.i.toNat + k ≤ 0xFFF)
        ∧ exec (.draw 0x1#4 0x2#4 0x1#4) s = .next t ∧ (0x1#4 ≠ 0xF#4 ∧ 0x2#4 ≠ 0xF#4))
      ∧ ∃ s t : State, (∀ k, k < (0x1#4).toNat → (s.reg 0xF#4).toNat + k < 32 → s.i.toNat + k ≤ 0xFFF)
        ∧ exec (.draw 0xF#4 0xF#4 0x1#4) s = .next t ∧ t.reg 0xF#4 = s.reg 0xF#4 := by
  have h1 : ∀ k, k < (0x1#4).toNat → k = 0 := fun k hk => Nat.lt_one_iff.1 hk
  exact ⟨⟨{ State.reset with i := 0x300#16 }, _,
      fun k hk _ => by rw [h1 k hk]; decide, rfl, by decide⟩,
    ⟨{ State.reset with i := 0x300#16, mem := [(0x300, 0x80#8)] }, _,
      fun k hk _ => by rw [h1 k hk]; decide, rfl, by decide⟩⟩

/-- DrawOffTheScreenChangesNoPixel: a state for each clause, at the edge. -/
theorem witness_drawOffTheScreen :
    (∃ s : State, (s.reg 0x2#4).toNat = 32 ∧ s.i.toNat = 0x1000) ∧ (0x0#4).toNat = 0
      ∧ ∃ s : State, (s.reg 0x1#4).toNat = 64
        ∧ ∀ k, k < (0x1#4).toNat → (s.reg 0x2#4).toNat + k < 32 → s.i.toNat + k ≤ 0xFFF :=
  ⟨⟨{ start legacy [(0x2#4, 32#8)] with i := 0x1000#16 }, by decide⟩, rfl,
    ⟨{ start legacy [(0x1#4, 64#8)] with i := 0xFFF#16 }, by decide, fun k hk _ => by
      rw [show k = 0 from Nat.lt_one_iff.1 hk]; decide⟩⟩

/-- KeySkipsTestTheNamedKey: key `0xF` down, and a value above `0xF`. -/
theorem witness_keySkips :
    (∃ s : State, ((s.reg 0x1#4).toNat ≤ 0xF ∧ s.keys.getLsbD (s.reg 0x1#4).toNat = true) ↔ True)
      ∧ ∃ s : State, ((s.reg 0x1#4).toNat ≤ 0xF ∧ s.keys.getLsbD (s.reg 0x1#4).toNat = true) ↔ False :=
  ⟨⟨{ start legacy [(0x1#4, 0x0F#8)] with keys := 0x8000#16 }, by decide⟩,
    ⟨{ start legacy [(0x1#4, 0x10#8)] with keys := 0xFFFF#16 }, by decide⟩⟩

/-- GetKeyPollsForTheLowestKeyDown: no key, and only the highest. -/
theorem witness_getKey :
    State.reset.keys = 0x0000#16
      ∧ ∃ s : State, s.keys.getLsbD 15 = true ∧ ∀ j, j < 15 → s.keys.getLsbD j = false :=
  ⟨rfl, { State.reset with keys := 0x8000#16 }, by decide⟩

/-- BcdStoresThreeDecimalDigits, StoreCopiesRegistersToMemory, LoadCopiesMemoryToRegisters: the last legal
position of each. -/
theorem witness_lastLegalPositions :
    ∃ s u : State, s.i.toNat + 2 = 0xFFF ∧ u.i.toNat + (0xF#4).toNat = 0xFFF :=
  ⟨{ State.reset with i := 0xFFD#16 }, { State.reset with i := 0xFF0#16 }, by decide⟩

end Sys2Proof.Tests
end

section
/-! PROOFS of the statements of 00_scope: what every instruction leaves unchanged, what `is_new_chip8` selects,
and what the moves of the host change. -/

namespace Sys2Proof.Machine

/-! ### The instructions that branch on the state -/

theorem exec_jumpAndLink_of_room (nnn : Addr12) {s : State} (hs : s.stack.length < stackDepth) :
    exec (.jumpAndLink nnn) s
      = .next ((s.setStack (s.stack ++ [s.pc])).setPc (addrOperand nnn)) := by
  simp [exec, execJumpAndLink, State.push, hs]

theorem exec_jumpAndLink_of_full (nnn : Addr12) {s : State} (hs : stackDepth ≤ s.stack.length) :
    exec (.jumpAndLink nnn) s = .next (s.raiseIn (.jumpAndLink nnn) .stackOverflow none) := by
  simp [exec, execJumpAndLink, State.push, Nat.not_lt.2 hs]

theorem exec_returnFromProcedure_of_append {s : State} {rest : List Word} {val : Word}
    (hs : s.stack = rest ++ [val]) :
    exec .returnFromProcedure s = .next ((s.setStack rest).setPc val) := by
  simp [exec, execReturnFromProcedure, State.pop, hs]

theorem exec_returnFromProcedure_of_nil {s : State} (hs : s.stack = []) :
    exec .returnFromProcedure s = .next (s.raiseIn .returnFromProcedure .stackUnderflow none) := by
  simp [exec, execReturnFromProcedure, State.pop, hs]

theorem exec_getKey_of_none (x : Nibble) {s : State} (hs : s.lowestKeyDown = none) :
    exec (.getKey x) s = .next (s.setPc (s.pc - 2#16)) := by
  simp [exec, execGetKey, hs]

theorem exec_getKey_of_some (x : Nibble) {s : State} {k : Nat} (hs : s.lowestKeyDown = some k) :
    exec (.getKey x) s = .next (s.setReg x (BitVec.ofNat 8 k)) := by
  simp [exec, execGetKey, hs]

theorem exec_addToIndex_of_updated (x : Nibble) {s : State} (hs : s.cfg.isNewChip8 = true) :
    exec (.addToIndex x) s
      = .next (if indexOverflow (s.indexSum x)
          then (s.setIndex (BitVec.ofNat 16 (s.indexSum x % 0x1000))).setFlag true
          else s.setIndex (BitVec.ofNat 16 (s.indexSum x % 0x1000))) :=
  if_pos hs

theorem exec_addToIndex_of_legacy (x : Nibble) {s : State} (hs : s.cfg.isNewChip8 = false) :
    exec (.addToIndex x) s = .next (s.setIndex (BitVec.ofNat 16 (s.indexSum x))) :=
  if_neg (by rw [hs]; decide)

theorem exec_unsupported_of_halt (w : Word) {s : State} (hs : s.cfg.haltOnInvalid = true) :
    exec (.unsupported w) s = .next (s.raiseIn (.unsupported w) .invalidOpcode (some w)) :=
  if_pos hs

theorem exec_unsupported_of_ignore (w : Word) {s : State} (hs : s.cfg.haltOnInvalid = false) :
    exec (.unsupported w) s = .next s :=
  if_neg (by rw [hs]; decide)

/-! ### The fields no instruction writes -/

/-- `t` is `s` but for the fields that some instruction writes: the latch, the queue, the timer agent's bit,
the configuration, the input lines and the schedule are as in `s` (10_state R33, R34, R37). -/
def State.InstrFrame (s t : State) : Prop :=
  t = { s with
    v := t.v, pc := t.pc, i := t.i, stack := t.stack, mem := t.mem, fb := t.fb
    delayTimer := t.delayTimer, soundTimer := t.soundTimer, status := t.status, draws := t.draws }

theorem State.InstrFrame.cfg_eq {s t : State} (h : s.InstrFrame t) : t.cfg = s.cfg := by
  unfold State.InstrFrame at h
  rw [h]

theorem State.InstrFrame.trans {s t u : State} (hst : s.InstrFrame t) (htu : t.InstrFrame u) :
    s.InstrFrame u := by
  unfold State.InstrFrame at *
  rw [hst] at htu
  exact htu

theorem State.setMem_instrFrame (s : State) (m : Memory) : s.InstrFrame (s.setMem m) := rfl

theorem State.raiseIn_instrFrame (s : State) (ins : Instr) (c : FaultCause) (info : Option Word) :
    s.InstrFrame (s.raiseIn ins c info) := rfl

theorem State.skipIf_instrFrame (s : State) (c : Bool) : s.InstrFrame (s.skipIf c) := by
  rw [State.skipIf_eq]; rfl

theorem State.bumpIndex_instrFrame (s : State) (x : Nibble) : s.InstrFrame (s.bumpIndex x) := by
  rw [State.bumpIndex_eq]; rfl

theorem State.loadRegs_instrFrame (s : State) (ks : List Nat) : s.InstrFrame (s.loadRegs ks) := by
  rw [State.loadRegs_eq]; rfl

/-- A checked access has the frame of the access itself, since the fault writes only `pc` and `status`. -/
theorem State.checked_instrFrame {s done : State} (h : s.InstrFrame done) (ins : Instr)
    (addresses : List Nat) : s.InstrFrame (s.checked ins addresses done) := by
  obtain ⟨-, hdone⟩ | ⟨a, -, -, hfault⟩ := s.checked_cases ins addresses done
  · rwa [hdone]
  · rw [hfault]; exact s.raiseIn_instrFrame _ _ _

/-- Every instruction keeps the fields that none of them writes. -/
theorem exec_instrFrame {i : Instr} {s t : State} (h : exec i s = .next t) : s.InstrFrame t := by
  cases i with
  | jumpAndLink nnn =>
    rcases Nat.lt_or_ge s.stack.length stackDepth with hs | hs
    · rw [exec_jumpAndLink_of_room nnn hs] at h; cases h; rfl
    · rw [exec_jumpAndLink_of_full nnn hs] at h; cases h; rfl
  | returnFromProcedure =>
    rcases s.stack.eq_nil_or_concat' with hs | ⟨rest, val, hs⟩
    · rw [exec_returnFromProcedure_of_nil hs] at h; cases h; rfl
    · rw [exec_returnFromProcedure_of_append hs] at h; cases h; rfl
  | getKey x =>
    cases hs : s.lowestKeyDown with
    | none => rw [exec_getKey_of_none x hs] at h; cases h; rfl
    | some k => rw [exec_getKey_of_some x hs] at h; cases h; rfl
  | addToIndex x =>
    cases hs : s.cfg.isNewChip8 with
    | false => rw [exec_addToIndex_of_legacy x hs] at h; cases h; rfl
    | true => rw [exec_addToIndex_of_updated x hs] at h; cases h; split <;> rfl
  | unsupported w =>
    cases hs : s.cfg.haltOnInvalid with
    | false => rw [exec_unsupported_of_ignore w hs] at h; cases h; rfl
    | true => rw [exec_unsupported_of_halt w hs] at h; cases h; rfl
  | skipIfEqualImm | skipIfNotEqualImm | skipIfEqualReg | skipIfNotEqualReg | skipIfKeyPressed
  | skipIfKeyNotPressed =>
    cases h; exact s.skipIf_instrFrame _
  | draw | doBCDConversion =>
    cases h; refine State.checked_instrFrame ?_ _ _; rfl
  | storeRegistersToMemory x =>
    cases h
    exact State.checked_instrFrame
      ((s.setMem_instrFrame _).trans (State.bumpIndex_instrFrame _ x)) _ _
  | loadRegistersFromMemory x =>
    cases h
    exact State.checked_instrFrame
      ((s.loadRegs_instrFrame _).trans (State.bumpIndex_instrFrame _ x)) _ _
  | _ => cases h; rfl

/-! ### The configuration -/

/-- A cycle keeps the configuration, whether it executes, faults, stops or finds the run ended. -/
theorem cycle_cfg {s t : State} (h : cycle s = .next t) : t.cfg = s.cfg := by
  obtain ⟨-, hc⟩ | ⟨-, -, hc⟩ | ⟨-, -, -, hc⟩ | ⟨-, -, -, -, hc⟩ | ⟨-, -, -, -, hexec⟩ :=
    cycle_cases s
  · cases hc.symm.trans h; rfl
  · cases hc.symm.trans h; rfl
  · cases hc.symm.trans h; rfl
  · cases hc.symm.trans h; rfl
  · exact (exec_instrFrame (hexec.symm.trans h)).cfg_eq

@[simp] theorem State.tick_cfg (s : State) : s.tick.cfg = s.cfg := by
  obtain ⟨-, h⟩ | ⟨-, h⟩ := s.tick_cases <;> rw [h]

/-- A boot that answers a next state is a reset with the sampled configuration, then the load. -/
theorem perform_boot_next {cfg : Cfg} {rom : List Byte} {s t : State}
    (h : perform (.boot cfg rom) s = .next t) :
    rom.length ≤ romMaxSize ∧ t = (s.resetInput cfg).romLoad rom := by
  simp only [perform] at h
  split at h
  · cases h; exact ⟨‹_›, rfl⟩
  · cases h

/-- Every move but a boot keeps the configuration. -/
theorem perform_cfg {m : Move} {s t : State} (hm : ∀ cfg rom, m ≠ .boot cfg rom)
    (h : perform m s = .next t) : t.cfg = s.cfg := by
  cases m with
  | cycle => exact cycle_cfg h
  | tick => cases h; exact s.tick_cfg
  | keyEvent | setStop | setQueueDisconnected | shutdown => cases h; rfl
  | boot cfg rom => exact absurd rfl (hm cfg rom)

/-- Settles O22: a step is a cycle or the scheduled move, and of these only a boot samples. -/
theorem configurationChangesOnlyAtReset : Obligations.ConfigurationChangesOnlyAtReset := by
  intro s t h
  obtain ⟨hs, hstep⟩ | ⟨m, rest, hs, hstep⟩ := step_cases s
  · rw [hstep] at h; rw [hs]
    exact ⟨nofun, fun _ => cycle_cfg h⟩
  · rw [hstep] at h; rw [hs]
    refine ⟨fun cfg rom hboot => ?_, fun hm => ?_⟩
    · cases hboot
      obtain ⟨-, rfl⟩ := perform_boot_next h
      rfl
    · exact (perform_cfg (fun cfg rom he => hm cfg rom (congrArg some he)) h).trans
        (s.setSchedule_cfg rest)

/-! ### The quirk flag -/

/-- `s` under the setting `b` of `is_new_chip8` (00_scope R5). -/
def State.withQuirk (s : State) (b : Bool) : State :=
  { s with cfg := { s.cfg with isNewChip8 := b } }

theorem State.withQuirk_skipIf (s : State) (b c : Bool) :
    (s.skipIf c).withQuirk b = (s.withQuirk b).skipIf c := by cases c <;> rfl

theorem State.withQuirk_checked (s : State) (b : Bool) (ins : Instr) (addresses : List Nat)
    (done : State) :
    (s.checked ins addresses done).withQuirk b
      = (s.withQuirk b).checked ins addresses (done.withQuirk b) := by
  unfold State.checked
  split <;> rfl

/-- An instruction that is not one of the six commutes with the setting of `is_new_chip8`: what it branches
on and what it writes are read from the rest of the state. -/
theorem exec_withQuirk {i : Instr} {s t : State} (b : Bool) (hq : i.quirk = false)
    (h : exec i s = .next t) : exec i (s.withQuirk b) = .next (t.withQuirk b) := by
  cases i with
  | rShift | lShift | jumpWithOffset | addToIndex | storeRegistersToMemory
  | loadRegistersFromMemory => cases hq
  | jumpAndLink nnn =>
    rcases Nat.lt_or_ge s.stack.length stackDepth with hs | hs
    · rw [exec_jumpAndLink_of_room nnn hs] at h; cases h
      exact exec_jumpAndLink_of_room nnn (s := s.withQuirk b) hs
    · rw [exec_jumpAndLink_of_full nnn hs] at h; cases h
      exact exec_jumpAndLink_of_full nnn (s := s.withQuirk b) hs
  | returnFromProcedure =>
    rcases s.stack.eq_nil_or_concat' with hs | ⟨rest, val, hs⟩
    · rw [exec_returnFromProcedure_of_nil hs] at h; cases h
      exact exec_returnFromProcedure_of_nil (s := s.withQuirk b) hs
    · rw [exec_returnFromProcedure_of_append hs] at h; cases h
      exact exec_returnFromProcedure_of_append (s := s.withQuirk b) hs
  | getKey x =>
    cases hs : s.lowestKeyDown with
    | none =>
      rw [exec_getKey_of_none x hs] at h; cases h
      exact exec_getKey_of_none x (s := s.withQuirk b) hs
    | some k =>
      rw [exec_getKey_of_some x hs] at h; cases h
      exact exec_getKey_of_some x (s := s.withQuirk b) hs
  | unsupported w =>
    cases hs : s.cfg.haltOnInvalid with
    | false =>
      rw [exec_unsupported_of_ignore w hs] at h; cases h
      exact exec_unsupported_of_ignore w (s := s.withQuirk b) hs
    | true =>
      rw [exec_unsupported_of_halt w hs] at h; cases h
      exact exec_unsupported_of_halt w (s := s.withQuirk b) hs
  | skipIfEqualImm | skipIfNotEqualImm | skipIfEqualReg | skipIfNotEqualReg | skipIfKeyPressed
  | skipIfKeyNotPressed =>
    cases h; rw [State.withQuirk_skipIf]; rfl
  | draw | doBCDConversion =>
    cases h; rw [State.withQuirk_checked]; rfl
  | _ => cases h; rfl

/-- Settles O32: the states of the statement are `s` and `t` under the setting `b`. -/
theorem quirkFlagTouchesSixInstructions : Obligations.QuirkFlagTouchesSixInstructions :=
  fun _ _ _ b hq h => exec_withQuirk b hq h

/-! ### The host's inputs -/

/-- Settles O15: `perform` gives each of the three moves the update of its one field. -/
theorem hostInputsChangeOneField : Obligations.HostInputsChangeOneField :=
  fun _ _ _ => ⟨rfl, rfl, rfl⟩

end Sys2Proof.Machine
end

section
/-! PROOFS of the statements of 10_state: what each instruction can do to the state, which instruction may write
which field, the invariant that every step keeps, the end of a run, the drain and the boot. -/

namespace Sys2Proof.Machine

/-! ### What an instruction can do -/

/-- What an instruction may leave in `pc`, if it does not call or return: the next word, the word after it, its
own address again, or a target, none of which is computed above `0x10FE` (10_state R23, R24). -/
def State.PcTarget (s : State) (a : Word) : Prop :=
  a = s.pc ∨ a = s.pc + 2#16 ∨ a = s.pc - 2#16 ∨ a.toNat ≤ 0x10FE

/-- `t` is what the instruction may make of `s`: the fault that is due, or the writes of its form. Forms that
write the same fields share a case, so that what holds of every instruction is read off a few cases
(`exec_effect` ties them to `exec`). -/
inductive State.Effect (s : State) : Instr → State → Prop where
  | fault {i : Instr} {c : FaultCause} {info : Option Word} (h : faultWhen s i = some (c, info)) :
      Effect s i (s.raiseIn i c info)
  | branch {i : Instr} {a : Word} (ha : s.PcTarget a) : Effect s i (s.setPc a)
  | call {nnn : Addr12} (hs : s.stack.length < stackDepth) :
      Effect s (.jumpAndLink nnn) ((s.setStack (s.stack ++ [s.pc])).setPc (addrOperand nnn))
  | ret {rest : List Word} {val : Word} (hs : s.stack = rest ++ [val]) :
      Effect s .returnFromProcedure ((s.setStack rest).setPc val)
  | registers {i : Instr} {v : Vector Byte 16}
      (hr : ∀ r, i.mayWrite s.cfg.isNewChip8 r = false → State.reg { s with v := v } r = s.reg r) :
      Effect s i { s with v := v }
  | random {x : Nibble} {kk b : Byte} : Effect s (.randomAnd x kk) (s.setReg x b).countDraw
  | delayTimer {x : Nibble} {b : Byte} : Effect s (.setDelayTimer x) (s.setDelayTimer b)
  | soundTimer {x : Nibble} {b : Byte} : Effect s (.setSoundTimer x) (s.setSoundTimer b)
  | clear : Effect s .clearScreen (s.setFrame blankFrame)
  | draw {x y n : Nibble} {f : Frame} {flag : Bool} :
      Effect s (.draw x y n) ((s.setFrame f).setFlag flag)
  | setIndex {nnn : Addr12} : Effect s (.setIndex nnn) (s.setIndex (addrOperand nnn))
  | glyph {x : Nibble} : Effect s (.setIndexToFontCharacter x) (s.setIndex (glyphAddress (s.reg x)))
  | addIndex {x : Nibble} {a : Word} (ha : s.cfg.isNewChip8 = true → a.toNat ≤ lastAddress) :
      Effect s (.addToIndex x) (s.setIndex a)
  | addIndexPast {x : Nibble} {a : Word} (hc : s.cfg.isNewChip8 = true) (ha : a.toNat ≤ lastAddress) :
      Effect s (.addToIndex x) ((s.setIndex a).setFlag true)
  | bcd {x : Nibble} {bytes : List Byte} (hb : bytes.length = 3) :
      Effect s (.doBCDConversion x) (s.setMem (s.mem.writeBytes s.i.toNat bytes))
  | store {x : Nibble} {a : Word} (ha : s.cfg.isNewChip8 = false ∨ a = s.i) :
      Effect s (.storeRegistersToMemory x)
        ((s.setMem (s.mem.writeBytes s.i.toNat (s.regsUpTo x))).setIndex a)
  | load {x : Nibble} {v : Vector Byte 16} {a : Word} (ha : s.cfg.isNewChip8 = false ∨ a = s.i)
      (hr : ∀ r : Nibble, x.toNat < r.toNat → State.reg { s with v := v } r = s.reg r) :
      Effect s (.loadRegistersFromMemory x) { s with v := v, i := a }

theorem State.Effect.setReg {s : State} {i : Instr} {x : Nibble} {b : Byte}
    (hw : ∀ r, i.mayWrite s.cfg.isNewChip8 r = (r == x)) : s.Effect i (s.setReg x b) :=
  .registers fun r hr => s.reg_setReg_ne (by simpa [hw] using hr) b

theorem State.Effect.setResultFlag {s : State} {i : Instr} {x : Nibble} {b : Byte} {flag : Bool}
    (hw : ∀ r, i.mayWrite s.cfg.isNewChip8 r = (r == x || r == flagReg)) :
    s.Effect i (s.setResultFlag x b flag) :=
  .registers fun r hr => by
    obtain ⟨hx, hf⟩ : r ≠ x ∧ r ≠ flagReg := by simpa [hw] using hr
    exact (s.reg_setResultFlag x r b flag).trans (by rw [if_neg hf, if_neg hx])

theorem State.Effect.skipIf (s : State) (i : Instr) (c : Bool) : s.Effect i (s.skipIf c) := by
  obtain ⟨-, h⟩ | ⟨-, h⟩ := s.skipIf_cases c
  · rw [h]; exact .branch (.inr (.inl rfl))
  · rw [h]; exact .branch (a := s.pc) (.inl rfl)

/-- The post-modification keeps `i` under the updated behaviour (45_index_memory R174, R175). -/
theorem State.bumpIndex_i (s : State) (x : Nibble) :
    s.cfg.isNewChip8 = false ∨ (s.bumpIndex x).i = s.i := by
  cases h : s.cfg.isNewChip8
  · exact .inl rfl
  · exact .inr (by simp [State.bumpIndex_eq, h])

theorem State.Effect.setMem_bumpIndex (s : State) (x : Nibble) :
    s.Effect (.storeRegistersToMemory x)
      ((s.setMem (s.mem.writeBytes s.i.toNat (s.regsUpTo x))).bumpIndex x) := by
  have hi := (s.setMem (s.mem.writeBytes s.i.toNat (s.regsUpTo x))).bumpIndex_i x
  rw [State.bumpIndex_eq] at hi ⊢
  exact .store hi

theorem State.Effect.loadRegs_bumpIndex (s : State) (x : Nibble) :
    s.Effect (.loadRegistersFromMemory x) ((s.loadRegs (List.range (x.toNat + 1))).bumpIndex x) := by
  have hreg := State.reg_loadRegs (List.range (x.toNat + 1))
    (fun k hk => by have := x.isLt; have := List.mem_range.1 hk; omega) s
  have hi := (s.loadRegs (List.range (x.toNat + 1))).bumpIndex_i x
  rw [State.bumpIndex_eq] at hi ⊢
  rw [State.loadRegs_eq] at hreg hi ⊢
  exact .load hi fun r hr => (hreg r).trans (if_neg (by rw [List.mem_range]; omega))

/-- An access to the `n` bytes from `i` on has its own effect, or faults as `faultWhen` lists it. -/
theorem State.Effect.checked_indexRun {s done : State} {i : Instr} {n : Nat} (hn : 0 < n)
    (hf : faultWhen s i = if 0 < n ∧ 0x1000 < s.i.toNat + n then
        some (.memoryOutOfBounds, some (BitVec.ofNat 16 (max s.i.toNat 0x1000))) else none)
    (hdone : s.Effect i done) : s.Effect i (s.checked i (s.indexRun n) done) := by
  rw [State.checked_indexRun _ _ hn]
  split
  · exact hdone
  · refine .fault ?_
    rw [hf, if_pos (by unfold lastAddress at *; omega)]

theorem addrOperand_le (nnn : Addr12) : (addrOperand nnn).toNat ≤ lastAddress := by
  have := nnn.isLt
  rw [addrOperand_toNat]
  unfold lastAddress
  omega

/-- The sum of JumpWithOffset is at most `0xFFF + 0xFF` (10_state R24). -/
theorem State.offsetTarget_le (s : State) (x : Nibble) (nnn : Addr12) :
    (s.offsetTarget x nnn).toNat ≤ 0x10FE := by
  have ha := addrOperand_le nnn
  have hr := (s.reg (s.offsetRegister x)).isLt
  unfold lastAddress at ha
  rw [State.offsetTarget, BitVec.toNat_add, BitVec.toNat_setWidth]
  omega

theorem glyphAddress_le (digit : Byte) : (glyphAddress digit).toNat ≤ lastAddress := by
  have := digit.isLt
  rw [glyphAddress_toNat]
  unfold lastAddress
  omega

/-- Everything an instruction can do. -/
theorem exec_effect {i : Instr} {s t : State} (h : exec i s = .next t) : s.Effect i t := by
  cases i with
  | jump nnn =>
    cases h
    exact .branch (.inr (.inr (.inr ((addrOperand_le nnn).trans (by decide)))))
  | jumpWithOffset x nnn =>
    cases h; exact .branch (.inr (.inr (.inr (s.offsetTarget_le x nnn))))
  | jumpAndLink nnn =>
    rcases Nat.lt_or_ge s.stack.length stackDepth with hs | hs
    · rw [exec_jumpAndLink_of_room nnn hs] at h; cases h; exact .call hs
    · rw [exec_jumpAndLink_of_full nnn hs] at h; cases h; exact .fault (if_pos hs)
  | returnFromProcedure =>
    rcases s.stack.eq_nil_or_concat' with hs | ⟨rest, val, hs⟩
    · rw [exec_returnFromProcedure_of_nil hs] at h; cases h
      exact .fault (if_pos (List.length_eq_zero_iff.2 hs))
    · rw [exec_returnFromProcedure_of_append hs] at h; cases h; exact .ret hs
  | unsupported w =>
    cases hs : s.cfg.haltOnInvalid with
    | false =>
      rw [exec_unsupported_of_ignore w hs] at h; cases h
      exact .branch (a := s.pc) (.inl rfl)
    | true => rw [exec_unsupported_of_halt w hs] at h; cases h; exact .fault (if_pos hs)
  | skipIfEqualImm | skipIfNotEqualImm | skipIfEqualReg | skipIfNotEqualReg | skipIfKeyPressed
  | skipIfKeyNotPressed =>
    cases h; exact .skipIf s _ _
  | getKey x =>
    cases hs : s.lowestKeyDown with
    | none => rw [exec_getKey_of_none x hs] at h; cases h; exact .branch (.inr (.inr (.inl rfl)))
    | some k => rw [exec_getKey_of_some x hs] at h; cases h; exact .setReg fun _ => rfl
  | setRegister | addValueToRegister | set | or | and | xor | getDelayTimer =>
    cases h; exact .setReg fun _ => rfl
  | add | sub | rShift | rSub | lShift => cases h; exact .setResultFlag fun _ => rfl
  | randomAnd => cases h; exact .random
  | setDelayTimer => cases h; exact .delayTimer
  | setSoundTimer => cases h; exact .soundTimer
  | clearScreen => cases h; exact .clear
  | draw x y n =>
    cases h
    rw [State.checked_drawnRows]
    split
    · exact .fault (if_pos ‹_›)
    · exact .draw
  | setIndex => cases h; exact .setIndex
  | setIndexToFontCharacter => cases h; exact .glyph
  | addToIndex x =>
    cases hs : s.cfg.isNewChip8 with
    | false =>
      rw [exec_addToIndex_of_legacy x hs] at h; cases h
      exact .addIndex fun hc => absurd (hs.symm.trans hc) (by decide)
    | true =>
      have hle : (BitVec.ofNat 16 (s.indexSum x % 0x1000)).toNat ≤ lastAddress := by
        rw [BitVec.toNat_ofNat]; unfold lastAddress; omega
      rw [exec_addToIndex_of_updated x hs] at h; cases h
      split
      · exact .addIndexPast hs hle
      · exact .addIndex fun _ => hle
  | doBCDConversion x => cases h; exact .checked_indexRun (by decide) rfl (.bcd (bcdDigits_length _))
  | storeRegistersToMemory x =>
    cases h; exact .checked_indexRun x.toNat.succ_pos rfl (.setMem_bumpIndex s x)
  | loadRegistersFromMemory x =>
    cases h; exact .checked_indexRun x.toNat.succ_pos rfl (.loadRegs_bumpIndex s x)

/-! ### Which instruction may write which field -/

/-- Settles O25: of the cases of an effect only `clear` and `draw` set the frame. -/
theorem onlyClearAndDrawWriteTheFrameBuffer : Obligations.OnlyClearAndDrawWriteTheFrameBuffer := by
  intro i s t h hclear hdraw
  cases exec_effect h with
  | clear => exact absurd rfl hclear
  | draw => exact absurd rfl (hdraw _ _ _)
  | _ => rfl

/-- Only DoBCDConversion and StoreRegistersToMemory set memory (10_state R31). -/
theorem exec_mem {i : Instr} {s t : State} (h : exec i s = .next t)
    (hbcd : ∀ x, i ≠ .doBCDConversion x) (hstore : ∀ x, i ≠ .storeRegistersToMemory x) :
    t.mem = s.mem := by
  cases exec_effect h with
  | bcd => exact absurd rfl (hbcd _)
  | store => exact absurd rfl (hstore _)
  | _ => rfl

/-- Settles O26: what the cases `bcd` and `store` of an effect set is a run of bytes at `i`. -/
theorem onlyBcdAndStoreWriteMemory : Obligations.OnlyBcdAndStoreWriteMemory := by
  intro i s t h
  refine ⟨exec_mem h, fun x hi a ha => ?_, fun x hi a ha => ?_⟩
  · subst hi
    cases exec_effect h with
    | bcd hb => exact Memory.read_writeBytes_outside (by omega)
    | _ => rfl
  · subst hi
    cases exec_effect h with
    | store => exact Memory.read_writeBytes_outside (by rw [State.regsUpTo_length]; omega)
    | _ => rfl

/-- Settles O27: of the cases of an effect only `call` and `ret` set the stack. -/
theorem onlyCallAndReturnChangeTheStack : Obligations.OnlyCallAndReturnChangeTheStack := by
  intro i s t h
  cases exec_effect h with
  | call => exact .inr (.inl ⟨⟨_, rfl⟩, rfl⟩)
  | ret hs => exact .inr (.inr ⟨rfl, by simp [hs]⟩)
  | _ => exact .inl rfl

/-- Settles O28: the cases of an effect that set `i` are those of the listed forms. -/
theorem onlyItsWritersChangeTheIndexRegister : Obligations.OnlyItsWritersChangeTheIndexRegister := by
  intro i s t h
  cases exec_effect h with
  | setIndex => exact .inr (.inl ⟨_, rfl⟩)
  | addIndex | addIndexPast => exact .inr (.inr (.inl ⟨_, rfl⟩))
  | glyph => exact .inr (.inr (.inr (.inl ⟨_, rfl⟩)))
  | store ha =>
    obtain hc | ha := ha
    · exact .inr (.inr (.inr (.inr ⟨hc, _, .inl rfl⟩)))
    · exact .inl ha
  | load ha =>
    obtain hc | ha := ha
    · exact .inr (.inr (.inr (.inr ⟨hc, _, .inr rfl⟩)))
    · exact .inl ha
  | _ => exact .inl rfl

/-- Settles O29: of the cases of an effect only `delayTimer` and `soundTimer` set a counter. -/
theorem onlyTheirSettersWriteTheTimers : Obligations.OnlyTheirSettersWriteTheTimers := by
  intro i s t h
  cases exec_effect h with
  | delayTimer => exact ⟨.inr ⟨_, rfl⟩, .inl rfl⟩
  | soundTimer => exact ⟨.inl rfl, .inr ⟨_, rfl⟩⟩
  | _ => exact ⟨.inl rfl, .inl rfl⟩

/-- Settles O30: `mayWrite` lists every register that a case of an effect sets. -/
theorem registersChangeOnlyWhereListed : Obligations.RegistersChangeOnlyWhereListed := by
  intro i s t r h hr
  cases exec_effect h with
  | registers hreg => exact hreg r hr
  | random => exact s.reg_setReg_ne (beq_eq_false_iff_ne.1 hr) _
  | draw => exact State.reg_setReg_ne _ (beq_eq_false_iff_ne.1 hr) _
  | addIndexPast hc =>
    exact State.reg_setReg_ne _ (by simpa [Instr.mayWrite, hc] using hr) _
  | load _ hreg => exact hreg r (Nat.lt_of_not_le (of_decide_eq_false hr))
  | _ => rfl

/-- Only RandomAnd draws a random byte (00_scope R12). -/
theorem exec_draws {i : Instr} {s t : State} (h : exec i s = .next t)
    (hi : ∀ x kk, i ≠ .randomAnd x kk) : t.draws = s.draws := by
  cases exec_effect h with
  | random => exact absurd rfl (hi _ _)
  | _ => rfl

/-- Settles O31: the seven fields by the frame of every instruction, the draws by the cases of an effect. -/
theorem noInstructionTouchesLatchQueueOrConfiguration :
    Obligations.NoInstructionTouchesLatchQueueOrConfiguration := by
  intro i s t h
  have hf : t = _ := exec_instrFrame h
  refine ⟨?_, ?_, ?_, ?_, ?_, ?_, ?_, exec_draws h⟩ <;> rw [hf]

/-! ### The other agents' steps -/

/-- `t` is `s` but for the fields of the timer agent and of the host: the counters, the timer agent's bit, the
queue, the input lines and the schedule (70_reset_and_hazards R252). -/
def State.AgentFrame (s t : State) : Prop :=
  t = { s with
    delayTimer := t.delayTimer, soundTimer := t.soundTimer, timerRunning := t.timerRunning
    keyQueue := t.keyQueue, stop := t.stop, queueDisconnected := t.queueDisconnected
    schedule := t.schedule }

theorem State.AgentFrame.refl (s : State) : s.AgentFrame s := rfl

theorem State.setSchedule_agentFrame (s : State) (l : List Move) : s.AgentFrame (s.setSchedule l) := rfl

theorem State.AgentFrame.trans {s t u : State} (hst : s.AgentFrame t) (htu : t.AgentFrame u) :
    s.AgentFrame u := by
  unfold State.AgentFrame at *
  rw [hst] at htu
  exact htu

theorem State.tick_agentFrame (s : State) : s.AgentFrame s.tick := by
  obtain ⟨-, h⟩ | ⟨-, h⟩ := s.tick_cases <;> rw [h] <;> rfl

/-- The compute agent takes no step once the run has ended (10_state R35). -/
theorem cycle_of_ended {s : State} (hs : s.ended) : cycle s = .next s := by
  obtain ⟨-, h⟩ | ⟨hrun, -⟩ | ⟨hrun, -⟩ | ⟨hrun, -⟩ | ⟨hrun, -⟩ := cycle_cases s
  · exact h
  all_goals exact absurd hrun hs

/-- Every move of the timer agent and of the host but a boot keeps to their own fields. -/
theorem perform_agentFrame {m : Move} {s t : State} (h : perform m s = .next t)
    (hcycle : m ≠ .cycle) (hboot : ∀ cfg rom, m ≠ .boot cfg rom) : s.AgentFrame t := by
  cases m with
  | cycle => exact absurd rfl hcycle
  | boot cfg rom => exact absurd rfl (hboot cfg rom)
  | tick => cases h; exact s.tick_agentFrame
  | keyEvent | setStop | setQueueDisconnected | shutdown => cases h; rfl

/-- In an ended run every step but a boot keeps to the fields of the timer agent and of the host. -/
theorem step_agentFrame_of_ended {s t : State} (hs : s.ended) (h : step s = .next t)
    (hboot : ∀ cfg rom, s.schedule.head? ≠ some (.boot cfg rom)) : s.AgentFrame t := by
  obtain ⟨-, hstep⟩ | ⟨m, rest, hm, hstep⟩ := step_cases s
  · rw [hstep, cycle_of_ended hs] at h; cases h; exact .refl s
  · rw [hstep] at h
    rw [hm] at hboot
    refine (s.setSchedule_agentFrame rest).trans ?_
    by_cases hc : m = .cycle
    · subst hc
      cases (cycle_of_ended (s := s.setSchedule rest) hs).symm.trans h; exact .refl _
    · exact perform_agentFrame h hc fun cfg rom he => hboot cfg rom (congrArg some he)

/-- Settles O10: in an ended run a step writes none of the nine fields. -/
theorem endedRunChangesNothingUntilReset : Obligations.EndedRunChangesNothingUntilReset := by
  intro s t hs h hboot
  have hf : t = _ := step_agentFrame_of_ended hs h hboot
  refine ⟨?_, ?_, ?_, ?_, ?_, ?_, ?_, ?_, ?_⟩ <;> rw [hf]

/-! ### The invariant -/

theorem decode_encode_jumpAndLink (nnn : Addr12) :
    decode (encode (.jumpAndLink nnn)) = .jumpAndLink nnn := by
  simp [encode, decode]

theorem decode_encode_draw (x y n : Nibble) : decode (encode (.draw x y n)) = .draw x y n := by
  simp [encode, decode]

theorem decode_encode_doBCDConversion (x : Nibble) :
    decode (encode (.doBCDConversion x)) = .doBCDConversion x := by
  simp [encode, decode, decodeMisc]

theorem decode_encode_storeRegistersToMemory (x : Nibble) :
    decode (encode (.storeRegistersToMemory x)) = .storeRegistersToMemory x := by
  simp [encode, decode, decodeMisc]

theorem decode_encode_loadRegistersFromMemory (x : Nibble) :
    decode (encode (.loadRegistersFromMemory x)) = .loadRegistersFromMemory x := by
  simp [encode, decode, decodeMisc]

/-- What a fault record says is said of the configuration, the stack, the index register and the registers
only. -/
theorem FaultRecord.consistent_congr {r : FaultRecord} {s t : State} (hcfg : t.cfg = s.cfg)
    (hstack : t.stack = s.stack) (hi : t.i = s.i) (hv : t.v = s.v) (h : r.consistent s) :
    r.consistent t := by
  unfold FaultRecord.consistent State.reg at *
  rwa [hcfg, hstack, hi, hv]

theorem lowestOffending_toNat (a : Word) :
    (BitVec.ofNat 16 (max a.toNat 0x1000)).toNat = max a.toNat 0x1000 := by
  have := a.isLt
  rw [BitVec.toNat_ofNat]
  omega

/-- The record of a fault that is due says what the rule of its cause says: the word in it is decoded to the
instruction again, and the condition of the fault holds (60_exceptions R201 to R205, R207). -/
theorem faultWhen_consistent {w : Word} {i : Instr} {s : State} {c : FaultCause} {info : Option Word}
    (hi : decode w = i) (hdepth : s.stack.length ≤ stackDepth) (h : faultWhen s i = some (c, info))
    (a : Word) : FaultRecord.consistent ⟨c, info, a, some (encode i)⟩ s := by
  cases i with
  | jumpAndLink nnn =>
    obtain ⟨hfull, hc⟩ := Option.ite_none_right_eq_some.1 h
    cases hc
    exact ⟨Nat.le_antisymm hdepth hfull, rfl, _, nnn, rfl, decode_encode_jumpAndLink nnn⟩
  | returnFromProcedure =>
    obtain ⟨hempty, hc⟩ := Option.ite_none_right_eq_some.1 h
    cases hc
    exact ⟨List.length_eq_zero_iff.1 hempty, rfl, rfl⟩
  | draw x y n =>
    obtain ⟨hrun, hc⟩ := Option.ite_none_right_eq_some.1 h
    cases hc
    exact ⟨⟨_, rfl, lowestOffending_toNat s.i⟩, _, rfl, .inl ⟨x, y, n, decode_encode_draw x y n,
      min n.toNat (32 - (s.reg y).toNat) - 1, by omega, by omega, by omega⟩⟩
  | doBCDConversion x =>
    obtain ⟨hrun, hc⟩ := Option.ite_none_right_eq_some.1 h
    cases hc
    exact ⟨⟨_, rfl, lowestOffending_toNat s.i⟩, _, rfl,
      .inr (.inl ⟨x, decode_encode_doBCDConversion x, by omega⟩)⟩
  | storeRegistersToMemory x =>
    obtain ⟨hrun, hc⟩ := Option.ite_none_right_eq_some.1 h
    cases hc
    exact ⟨⟨_, rfl, lowestOffending_toNat s.i⟩, _, rfl,
      .inr (.inr ⟨x, .inl (decode_encode_storeRegistersToMemory x), by omega⟩)⟩
  | loadRegistersFromMemory x =>
    obtain ⟨hrun, hc⟩ := Option.ite_none_right_eq_some.1 h
    cases hc
    exact ⟨⟨_, rfl, lowestOffending_toNat s.i⟩, _, rfl,
      .inr (.inr ⟨x, .inr (decode_encode_loadRegistersFromMemory x), by omega⟩)⟩
  | unsupported u =>
    obtain ⟨hhalt, hc⟩ := Option.ite_none_right_eq_some.1 h
    cases hc
    obtain rfl := decode_unsupported hi
    exact ⟨hhalt, _, rfl, rfl, hi⟩
  | _ => cases h

/-- While the run goes on there is no fault record, and the invariant is its bounds. -/
theorem State.Inv.of_running {t : State} (hrun : t.status = .running) (hmem : t.mem.wf)
    (hdepth : t.stack.length ≤ Machine.stackDepth) (hentries : ∀ a ∈ t.stack, a.toNat ≤ 0x1000)
    (hpc : t.pc.toNat ≤ 0x10FE) (hi : t.cfg.isNewChip8 = true → t.i.toNat ≤ lastAddress) : t.Inv :=
  ⟨hmem, hdepth, hentries, hpc, hi, fun _ hr => nomatch hrun.symm.trans hr⟩

theorem State.Inv.of_agentFrame {s t : State} (hs : s.Inv) (hf : s.AgentFrame t) : t.Inv := by
  rw [show t = _ from hf]
  exact ⟨hs.memWf, hs.stackDepth, hs.stackEntries, hs.pcBound, hs.indexBound, fun r hr =>
    (hs.faultRecord r hr).imp_left (FaultRecord.consistent_congr rfl rfl rfl rfl)⟩

/-- After a fetch, where `pc` is the address of the next word, no target is above `0x10FE` (10_state R24). -/
theorem State.PcTarget.le {s : State} {a : Word} (ha : s.PcTarget a) (h2 : 2 ≤ s.pc.toNat)
    (hpc : s.pc.toNat ≤ 0x1000) : a.toNat ≤ 0x10FE := by
  rcases ha with rfl | rfl | rfl | ha
  · omega
  · bv_omega
  · bv_omega
  · exact ha

theorem State.indexBound_of_kept {s : State} {a : Word}
    (hi : s.cfg.isNewChip8 = true → s.i.toNat ≤ lastAddress)
    (ha : s.cfg.isNewChip8 = false ∨ a = s.i) : s.cfg.isNewChip8 = true → a.toNat ≤ lastAddress := by
  intro hc
  obtain hc' | rfl := ha
  · exact absurd (hc.symm.trans hc') (by decide)
  · exact hi hc

/-- Every case of an effect keeps the invariant, when `pc` holds the address of the word after the instruction
and the record of a fault that is due says what its cause's rule says. -/
theorem State.Effect.keeps_inv {i : Instr} {s t : State} (h : s.Effect i t) (hs : s.Inv)
    (hrun : s.status = .running) (h2 : 2 ≤ s.pc.toNat) (hpc : s.pc.toNat ≤ 0x1000)
    (hfault : ∀ c info, faultWhen s i = some (c, info) →
      FaultRecord.consistent ⟨c, info, s.pc - 2#16, some (encode i)⟩ s) : t.Inv := by
  obtain ⟨hmem, hdepth, hentries, hpcBound, hi, -⟩ := hs
  cases h with
  | fault hw =>
    refine ⟨hmem, hdepth, hentries, PcTarget.le (.inr (.inr (.inl rfl))) h2 hpc, hi, ?_⟩
    intro r hr
    cases hr
    exact ⟨FaultRecord.consistent_congr rfl rfl rfl rfl (hfault _ _ hw), rfl⟩
  | branch ha => exact .of_running hrun hmem hdepth hentries (ha.le h2 hpc) hi
  | call hroom =>
    refine .of_running hrun hmem ?_ ?_ ((addrOperand_le _).trans (by decide)) hi
    · simpa using hroom
    · simpa [or_imp, forall_and] using ⟨hentries, hpc⟩
  | ret hstack =>
    rw [hstack] at hdepth hentries
    refine .of_running hrun hmem ?_ (fun a ha => hentries a (List.mem_append_left _ ha)) ?_ hi
    · exact Nat.le_of_succ_le (by simpa using hdepth)
    · exact (hentries _ (by simp)).trans (by decide)
  | setIndex =>
    exact .of_running hrun hmem hdepth hentries hpcBound fun _ => addrOperand_le _
  | glyph => exact .of_running hrun hmem hdepth hentries hpcBound fun _ => glyphAddress_le _
  | addIndex ha => exact .of_running hrun hmem hdepth hentries hpcBound ha
  | addIndexPast _ ha => exact .of_running hrun hmem hdepth hentries hpcBound fun _ => ha
  | bcd => exact .of_running hrun (Memory.wf_writeBytes hmem _) hdepth hentries hpcBound hi
  | store ha =>
    have hkept := State.indexBound_of_kept hi ha
    exact .of_running hrun (Memory.wf_writeBytes hmem _) hdepth hentries hpcBound hkept
  | load ha =>
    have hkept := State.indexBound_of_kept hi ha
    exact .of_running hrun hmem hdepth hentries hpcBound hkept
  | _ => exact .of_running hrun hmem hdepth hentries hpcBound hi

/-- The invariant speaks of no field that the drain writes, and a running state has room for any `pc` in
bounds: so the state on which a fetched word is executed meets it. -/
theorem State.Inv.drain_advancePc {s : State} (hs : s.Inv) (hrun : s.status = .running)
    (hpc : s.pc.toNat < lastAddress) :
    s.drain.advancePc.Inv ∧ 2 ≤ s.drain.advancePc.pc.toNat ∧ s.drain.advancePc.pc.toNat ≤ 0x1000 := by
  have hadv : s.drain.advancePc.pc.toNat = s.pc.toNat + 2 := by
    rw [State.advancePc_pc, State.drain_pc, BitVec.toNat_add]
    unfold lastAddress at hpc
    simp; omega
  unfold lastAddress at hpc
  exact ⟨.of_running hrun hs.memWf hs.stackDepth hs.stackEntries (by omega) hs.indexBound,
    by omega, by omega⟩

/-- A fault before execute keeps the invariant: `pc` stays, so only its record is new. -/
theorem State.Inv.raise {s : State} (hs : s.Inv) {c : FaultCause} {info word : Option Word}
    (hr : FaultRecord.consistent ⟨c, info, s.pc, word⟩ s) : (s.raise c info s.pc word).Inv := by
  refine ⟨hs.memWf, hs.stackDepth, hs.stackEntries, hs.pcBound, hs.indexBound, ?_⟩
  intro r h
  cases h
  exact ⟨FaultRecord.consistent_congr rfl rfl rfl rfl hr, rfl⟩

theorem State.Inv.drain {s : State} (hs : s.Inv) : s.drain.Inv :=
  ⟨hs.memWf, hs.stackDepth, hs.stackEntries, hs.pcBound, hs.indexBound, fun r hr =>
    (hs.faultRecord r hr).imp_left (FaultRecord.consistent_congr rfl rfl rfl rfl)⟩

theorem State.Inv.stop {s : State} (hs : s.Inv) : (s.setStatus .stopped).Inv :=
  ⟨hs.memWf, hs.stackDepth, hs.stackEntries, hs.pcBound, hs.indexBound, nofun⟩

/-- A cycle keeps the invariant, whether it executes, faults, stops or finds the run ended. -/
theorem cycle_keeps_inv {s t : State} (hs : s.Inv) (h : cycle s = .next t) : t.Inv := by
  obtain ⟨-, hc⟩ | ⟨-, -, hc⟩ | ⟨-, -, -, hc⟩ | ⟨-, -, -, hpc, hc⟩ | ⟨hrun, -, -, hpc, hexec⟩ :=
    cycle_cases s
  · cases hc.symm.trans h; exact hs
  · cases hc.symm.trans h; exact hs.stop
  · cases hc.symm.trans h; exact hs.raise ⟨rfl, rfl⟩
  · cases hc.symm.trans h; exact hs.drain.raise ⟨rfl, rfl, hpc⟩
  · obtain ⟨hinv, h2, hle⟩ := hs.drain_advancePc hrun hpc
    exact (exec_effect (hexec.symm.trans h)).keeps_inv hinv hrun h2 hle
      fun _ _ hw => faultWhen_consistent rfl hinv.stackDepth hw _

/-- Settles O21: the reset state runs, and its fields are in bounds. -/
theorem invariantHoldsAtReset : Obligations.InvariantHoldsAtReset :=
  .of_running rfl Memory.wf_reset (Nat.zero_le _) nofun (by decide) nofun

/-- After a boot the machine runs from the reset values, with the image in memory. -/
theorem State.inv_romLoad_resetInput (s : State) (cfg : Cfg) (rom : List Byte) :
    ((s.resetInput cfg).romLoad rom).Inv :=
  have hr : State.reset.Inv := invariantHoldsAtReset
  .of_running rfl (Memory.wf_writeBytes hr.memWf _) hr.stackDepth hr.stackEntries hr.pcBound
    fun _ => Nat.zero_le _

/-- Every move of every agent keeps the invariant. -/
theorem perform_keeps_inv {m : Move} {s t : State} (hs : s.Inv) (h : perform m s = .next t) :
    t.Inv := by
  cases m with
  | cycle => exact cycle_keeps_inv hs h
  | boot cfg rom =>
    obtain ⟨-, rfl⟩ := perform_boot_next h
    exact s.inv_romLoad_resetInput cfg rom
  | tick | keyEvent | setStop | setQueueDisconnected | shutdown =>
    exact hs.of_agentFrame (perform_agentFrame h nofun nofun)

/-- Settles O20: a step is a cycle or the scheduled move, and both keep the invariant. -/
theorem everyStepKeepsTheInvariant : Obligations.EveryStepKeepsTheInvariant := by
  intro s t hs h
  obtain ⟨-, hstep⟩ | ⟨m, rest, -, hstep⟩ := step_cases s
  · exact cycle_keeps_inv hs (hstep.symm.trans h)
  · exact perform_keeps_inv (hs.of_agentFrame (s.setSchedule_agentFrame rest)) (hstep.symm.trans h)

/-! ### The drain -/

/-- An event sets the bit of its own key (10_state R33). -/
theorem getLsbD_applyKeyEvent (keys : Word) (e : KeyEvent) (k : Nibble) :
    (applyKeyEvent keys e).getLsbD k.toNat
      = if e.key = k then e.down else keys.getLsbD k.toNat := by
  have hkey : e.key.toNat < 16 := e.key.isLt
  have hk : k.toNat < 16 := k.isLt
  have hbit : (BitVec.twoPow 16 e.key.toNat).getLsbD k.toNat = decide (e.key = k) := by
    simp [BitVec.getLsbD_twoPow, hkey, ← BitVec.toNat_inj]
  unfold applyKeyEvent
  cases e.down with
  | true =>
    show (keys ||| BitVec.twoPow 16 e.key.toNat).getLsbD k.toNat = _
    rw [BitVec.getLsbD_or, hbit]
    by_cases h : e.key = k <;> simp [h]
  | false =>
    show (keys &&& ~~~BitVec.twoPow 16 e.key.toNat).getLsbD k.toNat = _
    rw [BitVec.getLsbD_and, BitVec.getLsbD_not, hbit]
    by_cases h : e.key = k <;> simp [h, hk]

/-- Settles O11, by induction on the queue from its newest event. -/
theorem drainLeavesTheMostRecentKeyState : Obligations.DrainLeavesTheMostRecentKeyState := by
  intro s k
  refine ⟨rfl, ?_⟩
  rw [State.drain_keys]
  induction s.keyQueue using List.reverseRecOn with
  | nil => rfl
  | append_singleton q e ih =>
    rw [List.foldl_append, List.foldl_cons, List.foldl_nil, getLsbD_applyKeyEvent, ih]
    by_cases h : e.key = k <;> simp [h]

/-! ### The timer agent's bit -/

theorem cycle_timerRunning {s t : State} (h : cycle s = .next t) :
    t.timerRunning = s.timerRunning := by
  obtain ⟨-, hc⟩ | ⟨-, -, hc⟩ | ⟨-, -, -, hc⟩ | ⟨-, -, -, -, hc⟩ | ⟨-, -, -, -, hexec⟩ :=
    cycle_cases s
  · cases hc.symm.trans h; rfl
  · cases hc.symm.trans h; rfl
  · cases hc.symm.trans h; rfl
  · cases hc.symm.trans h; rfl
  · rw [show t = _ from exec_instrFrame (hexec.symm.trans h)]; rfl

/-- Every move but a boot and a shutdown keeps the timer agent's bit. -/
theorem perform_timerRunning {m : Move} {s t : State} (h : perform m s = .next t)
    (hboot : ∀ cfg rom, m ≠ .boot cfg rom) (hshut : m ≠ .shutdown) :
    t.timerRunning = s.timerRunning := by
  cases m with
  | cycle => exact cycle_timerRunning h
  | tick => cases h; obtain ⟨-, ht⟩ | ⟨-, ht⟩ := s.tick_cases <;> rw [ht]
  | keyEvent | setStop | setQueueDisconnected => cases h; rfl
  | shutdown => exact absurd rfl hshut
  | boot cfg rom => exact absurd rfl (hboot cfg rom)

/-- Settles O14: a shutdown writes only the bit, and a tick finds it clear. -/
theorem shutdownEndsTickingUntilReset : Obligations.ShutdownEndsTickingUntilReset := by
  refine ⟨rfl, fun s => ⟨rfl, fun hs => ?_, fun hs => ?_, fun _ => rfl,
    fun _ _ => perform_timerRunning⟩⟩
  · exact congrArg Host.Outcome.next (show { s with timerRunning := false } = s by rw [← hs])
  · obtain ⟨hrun, -⟩ | ⟨-, ht⟩ := s.tick_cases
    · exact absurd (hs.symm.trans hrun) (by decide)
    · exact congrArg Host.Outcome.next ht

/-! ### Reset and boot -/

theorem perform_boot_of_le {rom : List Byte} (h : rom.length ≤ romMaxSize) (cfg : Cfg) (s : State) :
    perform (.boot cfg rom) s = .next ((s.resetInput cfg).romLoad rom) := if_pos h

theorem perform_boot_of_gt {rom : List Byte} (h : romMaxSize < rom.length) (cfg : Cfg) (s : State) :
    perform (.boot cfg rom) s = .fault (.romImageTooLong rom.length) := if_neg (Nat.not_le.2 h)

/-- After reset and load an address outside the image reads as at reset. -/
theorem State.byteAt_boot_outside (s : State) (cfg : Cfg) {rom : List Byte} {a : Nat}
    (h : a < 0x200 ∨ 0x200 + rom.length ≤ a) :
    ((s.resetInput cfg).romLoad rom).byteAt a = Memory.unlisted a :=
  Memory.read_writeBytes_outside h

/-- After reset and load the image stands from `0x200` on. -/
theorem State.byteAt_boot_image (s : State) (cfg : Cfg) {rom : List Byte} (h : rom.length ≤ romMaxSize)
    {k : Nat} (hk : k < rom.length) :
    ((s.resetInput cfg).romLoad rom).byteAt (0x200 + k) = rom[k] :=
  Memory.read_writeBytes_inside hk
    (by unfold romMaxSize at h; unfold romBase lastAddress; omega)

/-- Settles O17: the font and the zeros are what an address outside the image reads as. -/
theorem bootLeavesTheMemoryMap : Obligations.BootLeavesTheMemoryMap := by
  intro s cfg rom h
  refine ⟨_, perform_boot_of_le h cfg s, fontTable_length, fun a ha => ?_, fun k hk => ?_,
    fun a ha ha' => ?_, fun k hk => s.byteAt_boot_image cfg h hk, fun a ha ha' => ?_⟩
  · rw [s.byteAt_boot_outside cfg (by omega), Memory.unlisted_outside_font (by omega)]
  · rw [s.byteAt_boot_outside cfg (by rw [fontTable_length] at hk; omega), Memory.unlisted_font hk]
  · rw [s.byteAt_boot_outside cfg (by omega), Memory.unlisted_outside_font (by omega)]
  · rw [s.byteAt_boot_outside cfg (by omega), Memory.unlisted_outside_font (by omega)]

/-- Settles O16: the fetch after boot reads the image at `0x200` and `0x201`. -/
theorem resetEntersAtTheFirstImageBytes : Obligations.ResetEntersAtTheFirstImageBytes := by
  refine fun s cfg => ⟨rfl, rfl, fun hi lo more h => ⟨rfl, ?_⟩⟩
  have hhi := s.byteAt_boot_image cfg h (k := 0) (by simp)
  have hlo := s.byteAt_boot_image cfg h (k := 1) (by simp)
  obtain ⟨-, hf⟩ | ⟨hpc, -⟩ := ((s.resetInput cfg).romLoad (hi :: lo :: more)).fetch_cases
  · rw [hf]
    exact congrArg some (congrArg₂ wordOfBytes hhi hlo)
  · exact absurd hpc (show ¬lastAddress ≤ (0x0200#16).toNat by decide)

theorem State.reset_reg (r : Nibble) : State.reset.reg r = 0x00#8 :=
  Vector.getElem_replicate _

/-- Settles O18: a boot is a reset, which keeps the lines, the draws and the schedule, and a load, which
writes memory. -/
theorem bootClearsTheRestOfTheState : Obligations.BootClearsTheRestOfTheState := by
  refine fun s cfg rom => ⟨fun h => ⟨_, perform_boot_of_le h cfg s, ?_⟩, (perform_boot_of_gt · cfg s)⟩
  exact ⟨rfl, rfl, rfl, rfl, State.reset_reg, rfl, blankFrame_pixel, rfl, rfl, rfl, rfl, rfl, rfl, rfl,
    rfl⟩

/-- Settles O19: memory at reset lists no cell, so it reads as the font and zeros. -/
theorem resetStateHoldsTheListedValues : Obligations.ResetStateHoldsTheListedValues :=
  ⟨rfl, rfl, rfl, rfl, State.reset_reg, rfl, blankFrame_pixel, rfl, rfl, rfl, rfl,
    fun _ => Memory.unlisted_outside_font, fun _ => Memory.unlisted_font, rfl⟩

end Sys2Proof.Machine
end

section
/-! PROOFS of the statements of 20_memory: the canonical form of memory is determined by its reads, and a fetch
sees the bytes that a store has just written. -/

namespace Sys2Proof.Machine

/-! ### Memory in canonical form -/

/-- An address that does not read as the reset contents has its cell in the list. -/
theorem Memory.mem_of_read_ne_unlisted {m : Memory} {a : Nat} (h : m.read a ≠ Memory.unlisted a) :
    (a, m.read a) ∈ m := by
  induction m with
  | nil => exact absurd (Memory.read_nil a) h
  | cons head rest ih =>
    obtain ⟨c, b⟩ := head
    rw [Memory.read] at h ⊢
    split at h
    · next hc => rw [if_pos hc, hc]; exact List.mem_cons_self
    · next hc => rw [if_neg hc]; exact List.mem_cons_of_mem _ (ih h)

/-- The cells of a memory in canonical form are the reads that differ from the reset contents. -/
theorem Memory.mem_iff_read {m : Memory} (h : m.wf) (cell : Host.Cell) :
    cell ∈ m ↔ m.read cell.1 = cell.2 ∧ cell.2 ≠ Memory.unlisted cell.1 := by
  constructor
  · intro hc
    exact ⟨Memory.read_eq_of_mem h hc, (h.2 cell hc).2⟩
  · rintro ⟨hread, hne⟩
    have hc := Memory.mem_of_read_ne_unlisted (hread.trans_ne hne)
    rwa [hread] at hc

/-- Settles O33: memories that read alike list the same cells, and lists in strict order with the same
members are equal. -/
theorem memoriesThatReadAlikeAreEqual : Obligations.MemoriesThatReadAlikeAreEqual := by
  intro m m' hm hm' hread
  refine List.Pairwise.eq_of_mem_iff (r := InvImage (· < ·) Prod.fst) hm.1 hm'.1 fun cell => ?_
  rw [Memory.mem_iff_read hm, Memory.mem_iff_read hm', hread]

/-! ### A store, and the fetch after it -/

/-- StoreRegistersToMemory with its bytes in memory (45_index_memory R174). -/
theorem exec_storeRegistersToMemory_of_le (x : Nibble) {s : State}
    (h : s.i.toNat + x.toNat ≤ lastAddress) :
    exec (.storeRegistersToMemory x) s
      = .next ((s.setMem (s.mem.writeBytes s.i.toNat (s.regsUpTo x))).bumpIndex x) :=
  congrArg Host.Outcome.next
    ((s.checked_indexRun _ x.toNat.succ_pos _).trans (if_pos (Nat.succ_le_succ h)))

@[simp] theorem State.byteAt_bumpIndex (s : State) (x : Nibble) (a : Nat) :
    (s.bumpIndex x).byteAt a = s.byteAt a := by
  rw [State.bumpIndex_eq]; rfl

theorem State.regsUpTo_getElem (s : State) (x : Nibble) {k : Nat} (hk : k < (s.regsUpTo x).length) :
    (s.regsUpTo x)[k] = s.reg (BitVec.ofNat 4 k) := by
  simp [State.regsUpTo]

/-- After a store, the `k`-th byte from `i` on is register `k` (45_index_memory R174). -/
theorem exec_storeRegistersToMemory_byteAt {x : Nibble} {s t : State}
    (h : exec (.storeRegistersToMemory x) s = .next t) (hle : s.i.toNat + x.toNat ≤ lastAddress)
    {k : Nat} (hk : k ≤ x.toNat) : t.byteAt (s.i.toNat + k) = s.reg (BitVec.ofNat 4 k) := by
  rw [exec_storeRegistersToMemory_of_le x hle] at h
  cases h
  have hlen := s.regsUpTo_length x
  rw [State.byteAt_bumpIndex, ← s.regsUpTo_getElem x (by omega)]
  exact Memory.read_writeBytes_inside _ (by omega)

theorem State.fetch_of_lt {s : State} (h : s.pc.toNat < lastAddress) :
    s.fetch = some (wordOfBytes (s.byteAt s.pc.toNat) (s.byteAt (s.pc.toNat + 1))) := if_pos h

/-- Settles O34: the address lies in memory, so a fetch reads the two bytes, and both are stored registers. -/
theorem storedBytesAreFetchedAtOnce : Obligations.StoredBytesAreFetchedAtOnce := by
  intro x s t a h hle hia hax
  obtain ⟨k, ha⟩ := Nat.exists_eq_add_of_le hia
  have hhi := exec_storeRegistersToMemory_byteAt h hle (k := k) (by omega)
  have hlo := exec_storeRegistersToMemory_byteAt h hle (k := k + 1) (by omega)
  rw [ha, Nat.add_sub_cancel_left, ← hhi, ← hlo, ← Nat.add_assoc, ← ha]
  exact State.fetch_of_lt (s := { t with pc := a }) (show a.toNat < 0xFFF by omega)

end Sys2Proof.Machine
end

section
/-! PROOFS of the statements of 30_encoding: what the decoder answers for a word, that the decoder and the
encoder are inverse to each other, and that the opcode map selects the decoded instruction's row. -/

namespace Sys2Proof

open Sys2Proof.Machine

/-! ### The words of R76 -/

/-- The four groups of words that decode to Unsupported (30_encoding R76), in terms of the fields. -/
theorem isUnsupportedWord_iff (w : Word) :
    isUnsupportedWord w = true ↔
      (fieldOp w = 0x0#4 ∧ w ≠ 0x00E0#16 ∧ w ≠ 0x00EE#16)
        ∨ (fieldOp w = 0x8#4 ∧ fieldN w ∈ [0x8#4, 0x9#4, 0xA#4, 0xB#4, 0xC#4, 0xD#4, 0xF#4])
        ∨ (fieldOp w = 0xE#4 ∧ fieldKK w ∉ [0x9E#8, 0xA1#8])
        ∨ (fieldOp w = 0xF#4 ∧ fieldKK w ∉ [0x07#8, 0x0A#8, 0x15#8, 0x18#8, 0x1E#8, 0x29#8,
            0x33#8, 0x55#8, 0x65#8]) := by
  simp only [isUnsupportedWord, fieldOp, fieldN, fieldKK, Bool.or_eq_true, Bool.and_eq_true,
    Bool.not_eq_true', ← Bool.not_eq_true, beq_iff_eq, List.contains_iff_mem, or_assoc, not_or, ne_eq]

/-! ### What the decoder answers -/

/-- What the decoder answers for `w`, and what it read in `w` to answer it (30_encoding R75). -/
inductive Decodes (w : Word) : Instr → Prop where
  | clearScreen (hw : w = 0x00E0#16) : Decodes w .clearScreen
  | returnFromProcedure (hw : w = 0x00EE#16) : Decodes w .returnFromProcedure
  | jump (hop : fieldOp w = 0x1#4) : Decodes w (.jump (fieldNNN w))
  | jumpAndLink (hop : fieldOp w = 0x2#4) : Decodes w (.jumpAndLink (fieldNNN w))
  | skipIfEqualImm (hop : fieldOp w = 0x3#4) : Decodes w (.skipIfEqualImm (fieldX w) (fieldKK w))
  | skipIfNotEqualImm (hop : fieldOp w = 0x4#4) :
      Decodes w (.skipIfNotEqualImm (fieldX w) (fieldKK w))
  | skipIfEqualReg (hop : fieldOp w = 0x5#4) : Decodes w (.skipIfEqualReg (fieldX w) (fieldY w))
  | setRegister (hop : fieldOp w = 0x6#4) : Decodes w (.setRegister (fieldX w) (fieldKK w))
  | addValueToRegister (hop : fieldOp w = 0x7#4) :
      Decodes w (.addValueToRegister (fieldX w) (fieldKK w))
  | set (hop : fieldOp w = 0x8#4) (hn : fieldN w = 0x0#4) : Decodes w (.set (fieldX w) (fieldY w))
  | or (hop : fieldOp w = 0x8#4) (hn : fieldN w = 0x1#4) : Decodes w (.or (fieldX w) (fieldY w))
  | and (hop : fieldOp w = 0x8#4) (hn : fieldN w = 0x2#4) : Decodes w (.and (fieldX w) (fieldY w))
  | xor (hop : fieldOp w = 0x8#4) (hn : fieldN w = 0x3#4) : Decodes w (.xor (fieldX w) (fieldY w))
  | add (hop : fieldOp w = 0x8#4) (hn : fieldN w = 0x4#4) : Decodes w (.add (fieldX w) (fieldY w))
  | sub (hop : fieldOp w = 0x8#4) (hn : fieldN w = 0x5#4) : Decodes w (.sub (fieldX w) (fieldY w))
  | rShift (hop : fieldOp w = 0x8#4) (hn : fieldN w = 0x6#4) :
      Decodes w (.rShift (fieldX w) (fieldY w))
  | rSub (hop : fieldOp w = 0x8#4) (hn : fieldN w = 0x7#4) : Decodes w (.rSub (fieldX w) (fieldY w))
  | lShift (hop : fieldOp w = 0x8#4) (hn : fieldN w = 0xE#4) :
      Decodes w (.lShift (fieldX w) (fieldY w))
  | skipIfNotEqualReg (hop : fieldOp w = 0x9#4) :
      Decodes w (.skipIfNotEqualReg (fieldX w) (fieldY w))
  | setIndex (hop : fieldOp w = 0xA#4) : Decodes w (.setIndex (fieldNNN w))
  | jumpWithOffset (hop : fieldOp w = 0xB#4) : Decodes w (.jumpWithOffset (fieldX w) (fieldNNN w))
  | randomAnd (hop : fieldOp w = 0xC#4) : Decodes w (.randomAnd (fieldX w) (fieldKK w))
  | draw (hop : fieldOp w = 0xD#4) : Decodes w (.draw (fieldX w) (fieldY w) (fieldN w))
  | skipIfKeyPressed (hop : fieldOp w = 0xE#4) (hkk : fieldKK w = 0x9E#8) :
      Decodes w (.skipIfKeyPressed (fieldX w))
  | skipIfKeyNotPressed (hop : fieldOp w = 0xE#4) (hkk : fieldKK w = 0xA1#8) :
      Decodes w (.skipIfKeyNotPressed (fieldX w))
  | getDelayTimer (hop : fieldOp w = 0xF#4) (hkk : fieldKK w = 0x07#8) :
      Decodes w (.getDelayTimer (fieldX w))
  | getKey (hop : fieldOp w = 0xF#4) (hkk : fieldKK w = 0x0A#8) : Decodes w (.getKey (fieldX w))
  | setDelayTimer (hop : fieldOp w = 0xF#4) (hkk : fieldKK w = 0x15#8) :
      Decodes w (.setDelayTimer (fieldX w))
  | setSoundTimer (hop : fieldOp w = 0xF#4) (hkk : fieldKK w = 0x18#8) :
      Decodes w (.setSoundTimer (fieldX w))
  | addToIndex (hop : fieldOp w = 0xF#4) (hkk : fieldKK w = 0x1E#8) :
      Decodes w (.addToIndex (fieldX w))
  | setIndexToFontCharacter (hop : fieldOp w = 0xF#4) (hkk : fieldKK w = 0x29#8) :
      Decodes w (.setIndexToFontCharacter (fieldX w))
  | doBCDConversion (hop : fieldOp w = 0xF#4) (hkk : fieldKK w = 0x33#8) :
      Decodes w (.doBCDConversion (fieldX w))
  | storeRegistersToMemory (hop : fieldOp w = 0xF#4) (hkk : fieldKK w = 0x55#8) :
      Decodes w (.storeRegistersToMemory (fieldX w))
  | loadRegistersFromMemory (hop : fieldOp w = 0xF#4) (hkk : fieldKK w = 0x65#8) :
      Decodes w (.loadRegistersFromMemory (fieldX w))
  | unsupported (hw : isUnsupportedWord w = true) : Decodes w (.unsupported w)

theorem decodeWhole_decodes {w : Word} (hop : fieldOp w = 0x0#4) : Decodes w (decodeWhole w) := by
  unfold decodeWhole
  split
  · exact .clearScreen rfl
  · exact .returnFromProcedure rfl
  · next h0 hE => exact .unsupported ((isUnsupportedWord_iff w).2 (.inl ⟨hop, h0, hE⟩))

theorem decodeAlu_decodes {w : Word} (hop : fieldOp w = 0x8#4) : Decodes w (decodeAlu w) := by
  unfold decodeAlu
  split
  case h_10 =>
    refine .unsupported ((isUnsupportedWord_iff w).2 (.inr (.inl ⟨hop, ?_⟩)))
    generalize fieldN w = n at *
    revert n; decide
  all_goals constructor <;> assumption

theorem decodeKey_decodes {w : Word} (hop : fieldOp w = 0xE#4) : Decodes w (decodeKey w) := by
  unfold decodeKey
  split
  · exact .skipIfKeyPressed hop ‹_›
  · exact .skipIfKeyNotPressed hop ‹_›
  · refine .unsupported ((isUnsupportedWord_iff w).2 (.inr (.inr (.inl ⟨hop, ?_⟩))))
    simp only [List.mem_cons, List.not_mem_nil, or_false, not_or]
    and_intros <;> assumption

theorem decodeMisc_decodes {w : Word} (hop : fieldOp w = 0xF#4) : Decodes w (decodeMisc w) := by
  unfold decodeMisc
  split
  case h_10 =>
    refine .unsupported ((isUnsupportedWord_iff w).2 (.inr (.inr (.inr ⟨hop, ?_⟩))))
    simp only [List.mem_cons, List.not_mem_nil, or_false, not_or]
    and_intros <;> assumption
  all_goals constructor <;> assumption

/-- The decoder answers what its reading of the word says. -/
theorem decode_decodes (w : Word) : Decodes w (decode w) := by
  unfold decode
  split
  case h_1 hop => exact decodeWhole_decodes hop
  case h_9 hop => exact decodeAlu_decodes hop
  case h_15 hop => exact decodeKey_decodes hop
  case h_16 =>
    refine decodeMisc_decodes ?_
    generalize fieldOp w = op at *
    revert op; decide
  all_goals constructor; assumption

/-- No word of R76 is read as another form than Unsupported. -/
theorem Decodes.eq_unsupported {w : Word} {i : Instr} (hd : Decodes w i)
    (h : isUnsupportedWord w = true) : i = .unsupported w := by
  rw [isUnsupportedWord_iff] at h
  cases hd with
  | unsupported => rfl
  | clearScreen hw | returnFromProcedure hw => subst hw; exact absurd h (by decide)
  | set hop hn | or hop hn | and hop hn | xor hop hn | add hop hn | sub hop hn | rShift hop hn
  | rSub hop hn | lShift hop hn => simp [hop, hn] at h
  | skipIfKeyPressed hop hkk | skipIfKeyNotPressed hop hkk | getDelayTimer hop hkk
  | getKey hop hkk | setDelayTimer hop hkk | setSoundTimer hop hkk | addToIndex hop hkk
  | setIndexToFontCharacter hop hkk | doBCDConversion hop hkk | storeRegistersToMemory hop hkk
  | loadRegistersFromMemory hop hkk => simp [hop, hkk] at h
  | jump hop | jumpAndLink hop | skipIfEqualImm hop | skipIfNotEqualImm hop | skipIfEqualReg hop
  | setRegister hop | addValueToRegister hop | skipIfNotEqualReg hop | setIndex hop
  | jumpWithOffset hop | randomAnd hop | draw hop => simp [hop] at h

theorem decode_of_isUnsupportedWord {w : Word} (h : isUnsupportedWord w = true) :
    decode w = .unsupported w := (decode_decodes w).eq_unsupported h

/-! ### Decoding an encoded instruction -/

/-- Decoding is inverse to encoding on the instructions of the hardware. -/
theorem decode_encode {i : Instr} (h : i.wellFormed = true) : decode (encode i) = i := by
  cases i with
  | clearScreen | returnFromProcedure => decide
  | jumpAndLink nnn => exact decode_encode_jumpAndLink nnn
  | draw x y n => exact decode_encode_draw x y n
  | doBCDConversion x => exact decode_encode_doBCDConversion x
  | storeRegistersToMemory x => exact decode_encode_storeRegistersToMemory x
  | loadRegistersFromMemory x => exact decode_encode_loadRegistersFromMemory x
  | jump | skipIfEqualImm | skipIfNotEqualImm | skipIfEqualReg | setRegister | addValueToRegister
  | skipIfNotEqualReg | setIndex | randomAnd => simp [encode, decode]
  | set | or | and | xor | add | sub | rShift | rSub | lShift => simp [encode, decode, decodeAlu]
  | skipIfKeyPressed | skipIfKeyNotPressed => simp [encode, decode, decodeKey]
  | getDelayTimer | getKey | setDelayTimer | setSoundTimer | addToIndex | setIndexToFontCharacter =>
    simp [encode, decode, decodeMisc]
  | jumpWithOffset x nnn =>
    have hx : x = nnn.extractLsb' 8 4 := eq_of_beq h
    simp [encode, decode, hx]
  | unsupported w => exact decode_of_isUnsupportedWord h

/-- Settles O1: the round trip on words, and the two bytes in memory order are the word again. -/
theorem encodeThenDecodeIsIdentity : Obligations.EncodeThenDecodeIsIdentity := by
  intro i rest h
  have hd := decode_encode h
  exact ⟨hd, by rw [decodeBytes, wordOfBytes_high_low, hd]⟩

/-! ### The decoded instruction is one of the hardware's -/

theorem extractLsb'_fieldNNN (w : Word) : (fieldNNN w).extractLsb' 8 4 = fieldX w := by
  rw [← fieldX_packAddr (fieldOp w), packAddr_fields]

/-- Only two forms have a condition, and the decoder reads both operands so as to meet it. -/
theorem Decodes.wellFormed {w : Word} {i : Instr} (hd : Decodes w i) : i.wellFormed = true := by
  cases hd with
  | jumpWithOffset => exact beq_iff_eq.2 (extractLsb'_fieldNNN w).symm
  | unsupported hw => exact hw
  | _ => rfl

/-- Settles O3: what the decoder answers is well formed, form by form. -/
theorem decodedInstructionsAreWellFormed : Obligations.DecodedInstructionsAreWellFormed :=
  fun w => (decode_decodes w).wellFormed

theorem decode_eq_unsupported_iff (w : Word) :
    decode w = .unsupported w ↔ isUnsupportedWord w = true := by
  refine ⟨fun h => ?_, decode_of_isUnsupportedWord⟩
  have hwf := (decode_decodes w).wellFormed
  rwa [h] at hwf

/-- Settles O4: the operand is the word itself, and the four groups are those of well-formedness. -/
theorem unsupportedWordsAreTheFourGroups : Obligations.UnsupportedWordsAreTheFourGroups := by
  intro w
  refine ⟨⟨?_, fun h => ⟨w, h⟩⟩, (decode_eq_unsupported_iff w).trans (isUnsupportedWord_iff w)⟩
  rintro ⟨u, hu⟩
  rwa [decode_unsupported hu] at hu

/-! ### Encoding a decoded word -/

theorem packAddr_eq_of_fieldOp {w : Word} {op : Nibble} (hop : fieldOp w = op) :
    packAddr op (fieldNNN w) = w := hop ▸ packAddr_fields w

theorem packByte_eq_of_fieldOp {w : Word} {op : Nibble} (hop : fieldOp w = op) :
    packByte op (fieldX w) (fieldKK w) = w := hop ▸ packByte_fields w

theorem packByte_eq_of_fieldOp_of_fieldKK {w : Word} {op : Nibble} {kk : Byte}
    (hop : fieldOp w = op) (hkk : fieldKK w = kk) : packByte op (fieldX w) kk = w :=
  hkk ▸ packByte_eq_of_fieldOp hop

theorem packNibbles_eq_of_fieldOp_of_fieldN {w : Word} {op n : Nibble} (hop : fieldOp w = op)
    (hn : fieldN w = n) : packNibbles op (fieldX w) (fieldY w) n = w :=
  hop ▸ hn ▸ packNibbles_fields w

/-- The mask that drops the low nibble. -/
theorem and_maskIgnored (w : Word) :
    w &&& 0xFFF0#16 = packNibbles (fieldOp w) (fieldX w) (fieldY w) 0x0#4 := by
  have hmask : 0xFFF0#16 = packNibbles 0xF#4 0xF#4 0xF#4 0x0#4 := by decide
  conv_lhs => rw [← packNibbles_fields w, hmask]
  rw [packNibbles_and, nibble_and_ones, nibble_and_ones, nibble_and_ones, nibble_and_zero]

/-- In the two groups that do not examine the low nibble, it comes back 0 (30_encoding R78). -/
theorem encode_decode_of_ignored {w : Word} (h : fieldOp w = 0x5#4 ∨ fieldOp w = 0x9#4) :
    encode (decode w) = w &&& 0xFFF0#16 := by
  rw [and_maskIgnored]
  rcases h with hop | hop <;> simp [decode, encode, hop]

/-- Everywhere else the encoder writes back every field that the decoder read. -/
theorem Decodes.encode_eq {w : Word} {i : Instr} (hd : Decodes w i)
    (h : ¬(fieldOp w = 0x5#4 ∨ fieldOp w = 0x9#4)) : encode i = w := by
  cases hd with
  | clearScreen hw | returnFromProcedure hw => exact hw.symm
  | skipIfEqualReg hop => exact absurd (.inl hop) h
  | skipIfNotEqualReg hop => exact absurd (.inr hop) h
  | jump hop | jumpAndLink hop | setIndex hop | jumpWithOffset hop =>
    exact packAddr_eq_of_fieldOp hop
  | skipIfEqualImm hop | skipIfNotEqualImm hop | setRegister hop | addValueToRegister hop
  | randomAnd hop => exact packByte_eq_of_fieldOp hop
  | set hop hn | or hop hn | and hop hn | xor hop hn | add hop hn | sub hop hn | rShift hop hn
  | rSub hop hn | lShift hop hn => exact packNibbles_eq_of_fieldOp_of_fieldN hop hn
  | draw hop => exact packNibbles_eq_of_fieldOp_of_fieldN hop rfl
  | skipIfKeyPressed hop hkk | skipIfKeyNotPressed hop hkk | getDelayTimer hop hkk
  | getKey hop hkk | setDelayTimer hop hkk | setSoundTimer hop hkk | addToIndex hop hkk
  | setIndexToFontCharacter hop hkk | doBCDConversion hop hkk | storeRegistersToMemory hop hkk
  | loadRegistersFromMemory hop hkk => exact packByte_eq_of_fieldOp_of_fieldKK hop hkk
  | unsupported => rfl

/-- Settles O2: by whether the word's group examines the low nibble. -/
theorem decodeThenEncodeDropsOnlyTheIgnoredNibble :
    Obligations.DecodeThenEncodeDropsOnlyTheIgnoredNibble := by
  intro w
  split
  · exact encode_decode_of_ignored ‹_›
  · exact (decode_decodes w).encode_eq ‹_›

/-! ### The opcode map (30_encoding R74) -/

open Sys2Proof.Laws.FormRowOfEncoding (selects_maskOp selects_maskOpN selects_maskOpKK) in
/-- Every word selects the row of the instruction it decodes to. -/
theorem Decodes.row_selects {w : Word} {i : Instr} (hd : Decodes w i) : i.row.selects w = true := by
  cases hd with
  | clearScreen hw | returnFromProcedure hw => subst hw; decide
  | set hop hn | or hop hn | and hop hn | xor hop hn | add hop hn | sub hop hn | rShift hop hn
  | rSub hop hn | lShift hop hn => exact selects_maskOpN (by rw [hop, hn]; rfl)
  | skipIfKeyPressed hop hkk | skipIfKeyNotPressed hop hkk | getDelayTimer hop hkk
  | getKey hop hkk | setDelayTimer hop hkk | setSoundTimer hop hkk | addToIndex hop hkk
  | setIndexToFontCharacter hop hkk | doBCDConversion hop hkk | storeRegistersToMemory hop hkk
  | loadRegistersFromMemory hop hkk => exact selects_maskOpKK (by rw [hop, hkk]; rfl)
  | jump hop | jumpAndLink hop | skipIfEqualImm hop | skipIfNotEqualImm hop | skipIfEqualReg hop
  | setRegister hop | addValueToRegister hop | skipIfNotEqualReg hop | setIndex hop
  | jumpWithOffset hop | randomAnd hop | draw hop => exact selects_maskOp (by rw [hop]; rfl)
  | unsupported => exact beq_iff_eq.2 BitVec.and_zero

theorem row_mem_formTable {i : Instr} (h : ∀ u, i ≠ .unsupported u) : i.row ∈ formTable := by
  cases i with
  | unsupported u => exact absurd rfl (h u)
  | _ => simp [Instr.row, formTable]

/-- Two rows that agree where both masks look are one row. -/
theorem formTable_disjoint : ∀ r ∈ formTable, ∀ r' ∈ formTable,
    r.bits &&& r'.mask = r'.bits &&& r.mask → r = r' := by decide

/-- No word selects two of the 34 rows (30_encoding R74). -/
theorem eq_of_selects {r r' : FormRow} (hr : r ∈ formTable) (hr' : r' ∈ formTable) {w : Word}
    (h : r.selects w = true) (h' : r'.selects w = true) : r = r' := by
  refine formTable_disjoint r hr r' hr' ?_
  rw [← eq_of_beq h, ← eq_of_beq h', BitVec.and_assoc, BitVec.and_assoc, BitVec.and_comm r.mask]

/-- The fields that a row's mask covers: the opcode nibble, and the selector of the row's group. -/
theorem formTable_masks : ∀ r ∈ formTable,
    fieldOp r.mask = 0xF#4
      ∧ (fieldOp r.bits = 0x0#4 → r.mask = 0xFFFF#16)
      ∧ (fieldOp r.bits = 0x8#4 → fieldN r.mask = 0xF#4)
      ∧ (fieldOp r.bits = 0xE#4 ∨ fieldOp r.bits = 0xF#4 → fieldKK r.mask = 0xFF#8) := by decide

theorem formTable_bits_supported : ∀ r ∈ formTable, isUnsupportedWord r.bits = false := by decide

theorem fieldOp_and (a b : Word) : fieldOp (a &&& b) = fieldOp a &&& fieldOp b :=
  BitVec.extractLsb'_and

theorem fieldN_and (a b : Word) : fieldN (a &&& b) = fieldN a &&& fieldN b :=
  BitVec.extractLsb'_and

theorem fieldKK_and (a b : Word) : fieldKK (a &&& b) = fieldKK a &&& fieldKK b :=
  BitVec.extractLsb'_and

/-- A row sees the fields that make a word Unsupported, so an Unsupported word's row would have an
Unsupported word as its match. -/
theorem isUnsupportedWord_bits_of_selects {r : FormRow} (hr : r ∈ formTable) {w : Word}
    (h : r.selects w = true) (hw : isUnsupportedWord w = true) : isUnsupportedWord r.bits = true := by
  obtain ⟨hmOp, hmW, hmN, hmKK⟩ := formTable_masks r hr
  have hbits : r.bits = w &&& r.mask := (eq_of_beq h).symm
  have hop : fieldOp r.bits = fieldOp w := by
    rw [hbits, fieldOp_and, hmOp]; exact BitVec.and_allOnes
  rw [hop] at hmW hmN hmKK
  have hW (h0 : fieldOp w = 0x0#4) : r.bits = w := by
    rw [hbits, hmW h0]; exact BitVec.and_allOnes
  have hN (h8 : fieldOp w = 0x8#4) : fieldN r.bits = fieldN w := by
    rw [hbits, fieldN_and, hmN h8]; exact BitVec.and_allOnes
  have hKK (hg : fieldOp w = 0xE#4 ∨ fieldOp w = 0xF#4) : fieldKK r.bits = fieldKK w := by
    rw [hbits, fieldKK_and, hmKK hg]; exact BitVec.and_allOnes
  rw [isUnsupportedWord_iff] at hw ⊢
  rw [hop]
  rcases hw with ⟨h0, hne⟩ | ⟨h8, hn⟩ | ⟨hE, hkk⟩ | ⟨hF, hkk⟩
  · exact .inl ⟨h0, (hW h0).symm ▸ hne⟩
  · exact .inr (.inl ⟨h8, (hN h8).symm ▸ hn⟩)
  · exact .inr (.inr (.inl ⟨hE, (hKK (.inl hE)).symm ▸ hkk⟩))
  · exact .inr (.inr (.inr ⟨hF, (hKK (.inr hF)).symm ▸ hkk⟩))

/-- Settles O5: a supported word selects its own row, which is in the table, and no second one; an
Unsupported word selects none. -/
theorem eachWordSelectsExactlyItsRow : Obligations.EachWordSelectsExactlyItsRow := by
  refine fun w => ⟨fun hsup => ?_, fun huns r hr => ?_⟩
  · have hmem : (decode w).row ∈ formTable :=
      row_mem_formTable fun u hu => hsup (decode_unsupported hu ▸ hu)
    have hsel := (decode_decodes w).row_selects
    exact ⟨hmem, fun r hr => ⟨fun h => eq_of_selects hr hmem h hsel, fun h => h ▸ hsel⟩⟩
  · refine Bool.eq_false_iff.2 fun h => ?_
    have hbits := isUnsupportedWord_bits_of_selects hr h ((decode_eq_unsupported_iff w).1 huns)
    exact absurd hbits (Bool.eq_false_iff.1 (formTable_bits_supported r hr))

/-- Settles O6: fourteen words, decoded. -/
theorem specWordsDecodeAsListed : Obligations.SpecWordsDecodeAsListed := by
  unfold Obligations.SpecWordsDecodeAsListed
  decide

end Sys2Proof

namespace Sys2Proof.Machine

/-- Settles O23: the instructions that branch on the state answer a next state in each branch, and every other
form is a next state by its meaning. -/
theorem everyInstructionAnswersANextState : Obligations.EveryInstructionAnswersANextState := by
  intro i s
  cases i with
  | jumpAndLink nnn =>
    rcases Nat.lt_or_ge s.stack.length stackDepth with hs | hs
    · exact ⟨_, exec_jumpAndLink_of_room nnn hs⟩
    · exact ⟨_, exec_jumpAndLink_of_full nnn hs⟩
  | returnFromProcedure =>
    rcases s.stack.eq_nil_or_concat' with hs | ⟨rest, val, hs⟩
    · exact ⟨_, exec_returnFromProcedure_of_nil hs⟩
    · exact ⟨_, exec_returnFromProcedure_of_append hs⟩
  | getKey x =>
    cases hs : s.lowestKeyDown with
    | none => exact ⟨_, exec_getKey_of_none x hs⟩
    | some k => exact ⟨_, exec_getKey_of_some x hs⟩
  | addToIndex x =>
    cases hs : s.cfg.isNewChip8 with
    | false => exact ⟨_, exec_addToIndex_of_legacy x hs⟩
    | true => exact ⟨_, exec_addToIndex_of_updated x hs⟩
  | unsupported w =>
    cases hs : s.cfg.haltOnInvalid with
    | false => exact ⟨_, exec_unsupported_of_ignore w hs⟩
    | true => exact ⟨_, exec_unsupported_of_halt w hs⟩
  | _ => exact ⟨_, rfl⟩

end Sys2Proof.Machine
end

section
/-! PROOFS of the statements of 40_control_flow: where each control transfer leaves `pc`, what a call and a
return do to the stack, and that nothing else changes. -/

namespace Sys2Proof.Machine

/-! ### Jump, call and return -/

/-- Settles O35: the state of `setPc` with the zero-extended operand. -/
theorem jumpSetsTheProgramCounter : Obligations.JumpSetsTheProgramCounter :=
  fun nnn _ => ⟨_, rfl, rfl, addrOperand_toNat nnn⟩

/-- Settles O36: a call pushes while there is room, and faults on a full stack. -/
theorem callPushesTheAddressAfterIt : Obligations.CallPushesTheAddressAfterIt := by
  intro nnn s
  constructor
  · intro hroom
    exact ⟨_, exec_jumpAndLink_of_room nnn hroom, rfl, addrOperand_toNat nnn⟩
  · intro hfull
    rw [exec_jumpAndLink_of_full nnn hfull, State.raiseIn_eq]

/-- Settles O37: a return pops the newest entry into `pc`, and faults on an empty stack. -/
theorem returnPopsTheNewestAddress : Obligations.ReturnPopsTheNewestAddress := by
  intro s
  have hword : encode .returnFromProcedure = 0x00EE#16 := rfl
  constructor
  · intro rest a hstack
    exact exec_returnFromProcedure_of_append hstack
  · intro hempty
    rw [exec_returnFromProcedure_of_nil hempty, State.raiseIn_eq, hword]

/-! ### The comparing skips -/

/-- A skip fetched at `a` whose test `c` decides `p` goes to `a + 4` when `p` holds and to `a + 2` otherwise,
and changes nothing else. -/
theorem exec_skip_of_fetchedAt {i : Instr} {s : State} {a : Word} {c : Bool} {p : Prop} [Decidable p]
    (hexec : exec i s = .next (s.skipIf c)) (hpc : s.pc = a + 2#16) (hc : c = true ↔ p) :
    ∃ t, exec i s = .next t ∧ t = { s with pc := t.pc } ∧ t.pc = if p then a + 4#16 else a + 2#16 := by
  have hnext : s.pc + 2#16 = a + 4#16 := by rw [hpc, BitVec.add_assoc]; rfl
  rw [State.skipIf_eq, hnext, hpc] at hexec
  exact ⟨_, hexec, rfl, by simp only [State.setPc_pc, hc]⟩

/-- Settles O38: each of the four skips tests its own comparison. -/
theorem skipsCompareAndMoveByFour : Obligations.SkipsCompareAndMoveByFour :=
  fun _ _ _ _ _ hpc =>
    ⟨exec_skip_of_fetchedAt rfl hpc beq_iff_eq, exec_skip_of_fetchedAt rfl hpc bne_iff_ne,
      exec_skip_of_fetchedAt rfl hpc beq_iff_eq, exec_skip_of_fetchedAt rfl hpc bne_iff_ne⟩

/-! ### JumpWithOffset -/

/-- The sum of JumpWithOffset fits in 16 bits, so it is the sum of the operands. -/
theorem State.offsetTarget_toNat (s : State) (x : Nibble) (nnn : Addr12) :
    (s.offsetTarget x nnn).toNat = nnn.toNat + (s.reg (s.offsetRegister x)).toNat := by
  have hn := nnn.isLt
  have hr := (s.reg (s.offsetRegister x)).isLt
  rw [State.offsetTarget, BitVec.toNat_add, BitVec.toNat_setWidth, addrOperand_toNat]
  omega

/-- The offset under each behaviour. -/
theorem State.reg_offsetRegister (s : State) (x : Nibble) :
    s.reg (s.offsetRegister x) = if s.cfg.isNewChip8 = true then s.reg x else s.reg 0x0#4 :=
  apply_ite s.reg _ _ _

/-- Settles O39: the target is the whole sum, with the register that the quirk selects. -/
theorem jumpWithOffsetAddsTheSelectedRegister : Obligations.JumpWithOffsetAddsTheSelectedRegister := by
  intro x nnn s
  refine ⟨s.setPc (s.offsetTarget x nnn), rfl, rfl, ?_⟩
  rw [State.setPc_pc, State.offsetTarget_toNat, State.reg_offsetRegister]

end Sys2Proof.Machine
end

section
/-! PROOFS of the statements of 41_register_alu: the register that each immediate, ALU and random form writes,
the flag where it has one, and that nothing else changes. -/

namespace Sys2Proof.Machine

/-! ### What the two ways of writing a result leave -/

/-- An instruction that only sets `v[x]`: whatever its result satisfies, `v[x]` satisfies afterwards, and
nothing else changes (41_register_alu R120). -/
theorem exec_of_setReg (P : Byte → Prop) {i : Instr} {s : State} {x : Nibble} {result : Byte}
    (hexec : exec i s = .next (s.setReg x result)) (hresult : P result) :
    ∃ t, exec i s = .next t ∧ t = { s with v := t.v }
      ∧ P (t.reg x) ∧ ∀ r, r ≠ x → t.reg r = s.reg r :=
  ⟨_, hexec, s.setReg_eq x result, (s.reg_setReg_same x result).symm ▸ hresult,
    fun _ hr => s.reg_setReg_ne hr result⟩

/-- An instruction that sets `v[x]` and then the flag: `vF` is the flag, `v[x]` the result unless it is `vF`
(41_register_alu R121, D11), and nothing else changes. -/
theorem exec_of_setResultFlag (P : Byte → Prop) {i : Instr} {s : State} {x : Nibble} {result : Byte}
    {flag : Bool} {n : Nat} (hexec : exec i s = .next (s.setResultFlag x result flag))
    (hflag : (flagByte flag).toNat = n) (hresult : P result) :
    ∃ t, exec i s = .next t ∧ t = { s with v := t.v }
      ∧ (t.reg 0xF#4).toNat = n ∧ (x ≠ 0xF#4 → P (t.reg x))
      ∧ ∀ r, r ≠ x → r ≠ 0xF#4 → t.reg r = s.reg r := by
  refine ⟨_, hexec, s.setResultFlag_eq x result flag, ?_, fun hx => ?_, fun r hr hrF => ?_⟩
  · rw [State.reg_setResultFlag, if_pos rfl, hflag]
  · rwa [State.reg_setResultFlag, if_neg hx, if_pos rfl]
  · rw [State.reg_setResultFlag, if_neg hrF, if_neg hr]

/-! ### The flags and the results as numbers -/

theorem flagByte_carryOut_toNat (a b : Byte) :
    (flagByte (carryOut a b)).toNat = if 255 < a.toNat + b.toNat then 1 else 0 := by
  simp only [flagByte_toNat, carryOut, decide_eq_true_eq]

theorem flagByte_noBorrow_toNat (left right : Byte) :
    (flagByte (noBorrow left right)).toNat = if right.toNat ≤ left.toNat then 1 else 0 := by
  simp only [flagByte_toNat, noBorrow, decide_eq_true_eq]

/-- The flag of bit `k` of a byte is that binary digit of its value. -/
theorem flagByte_getLsbD_toNat (u : Byte) (k : Nat) :
    (flagByte (u.getLsbD k)).toNat = u.toNat / 2 ^ k % 2 := by
  rw [flagByte_toNat, BitVec.getLsbD, Nat.testBit_eq_decide_div_mod_eq]
  simp only [decide_eq_true_eq]
  split <;> omega

theorem flagByte_lowBitOut_toNat (u : Byte) : (flagByte (lowBitOut u)).toNat = u.toNat % 2 := by
  rw [lowBitOut, flagByte_getLsbD_toNat, Nat.pow_zero, Nat.div_one]

theorem flagByte_highBitOut_toNat (u : Byte) : (flagByte (highBitOut u)).toNat = u.toNat / 128 := by
  have hu := u.isLt
  rw [highBitOut, flagByte_getLsbD_toNat]
  omega

theorem byte_sub_toNat (a b : Byte) : ((a - b).toNat : Int) = (a.toNat - b.toNat : Int) % 256 := by
  have hb := b.isLt
  rw [BitVec.toNat_sub]
  omega

theorem byte_shiftRight_one_toNat (u : Byte) : (u >>> 1).toNat = u.toNat / 2 := by
  rw [BitVec.toNat_ushiftRight, Nat.shiftRight_one]

theorem byte_shiftLeft_one_toNat (u : Byte) : (u <<< 1).toNat = 2 * u.toNat % 256 := by
  rw [BitVec.toNat_shiftLeft, Nat.shiftLeft_eq, Nat.pow_one, Nat.mul_comm]

/-! ### The forms that write no flag -/

/-- Settles O40: the result is the immediate, or the sum of bytes, which wraps. -/
theorem immediateFormsWriteTheirDestinationOnly :
    Obligations.ImmediateFormsWriteTheirDestinationOnly :=
  fun x kk s =>
    ⟨exec_of_setReg (· = kk) rfl rfl,
      exec_of_setReg (·.toNat = ((s.reg x).toNat + kk.toNat) % 256) rfl (BitVec.toNat_add _ _)⟩

/-- Settles O41: a bit of the result is the operation on that bit of the two old values. -/
theorem copyAndLogicFormsLeaveTheFlag : Obligations.CopyAndLogicFormsLeaveTheFlag :=
  fun x y s =>
    ⟨exec_of_setReg (· = s.reg y) rfl rfl,
      exec_of_setReg (fun c => ∀ b, c.getLsbD b = ((s.reg x).getLsbD b || (s.reg y).getLsbD b)) rfl
        fun _ => BitVec.getLsbD_or,
      exec_of_setReg (fun c => ∀ b, c.getLsbD b = ((s.reg x).getLsbD b && (s.reg y).getLsbD b)) rfl
        fun _ => BitVec.getLsbD_and,
      exec_of_setReg (fun c => ∀ b, c.getLsbD b = ((s.reg x).getLsbD b ^^ (s.reg y).getLsbD b)) rfl
        fun _ => BitVec.getLsbD_xor⟩

/-! ### The forms that write the flag -/

/-- Settles O42: the sum of bytes wraps, and the flag is its carry. -/
theorem addWritesTheSumAndThenTheCarry : Obligations.AddWritesTheSumAndThenTheCarry :=
  fun x y s =>
    exec_of_setResultFlag (·.toNat = ((s.reg x).toNat + (s.reg y).toNat) % 256) rfl
      (flagByte_carryOut_toNat _ _) (BitVec.toNat_add _ _)

/-- Settles O43: the two forms differ in which register is on the left. -/
theorem subtractionsWriteTheDifferenceAndThenNoBorrow :
    Obligations.SubtractionsWriteTheDifferenceAndThenNoBorrow :=
  fun x y s =>
    ⟨exec_of_setResultFlag
        (fun c => (c.toNat : Int) = ((s.reg x).toNat - (s.reg y).toNat : Int) % 256) rfl
        (flagByte_noBorrow_toNat _ _) (byte_sub_toNat _ _),
      exec_of_setResultFlag
        (fun c => (c.toNat : Int) = ((s.reg y).toNat - (s.reg x).toNat : Int) % 256) rfl
        (flagByte_noBorrow_toNat _ _) (byte_sub_toNat _ _)⟩

/-- Settles O44: under either behaviour `u` is the value of the shift operand. -/
theorem shiftsMoveOneBitIntoTheFlag : Obligations.ShiftsMoveOneBitIntoTheFlag := by
  intro x y s u hu
  obtain rfl : u = (s.shiftOperand x y).toNat := hu
  exact
    ⟨exec_of_setResultFlag (·.toNat = (s.shiftOperand x y).toNat / 2) rfl
        (flagByte_lowBitOut_toNat _) (byte_shiftRight_one_toNat _),
      exec_of_setResultFlag (·.toNat = 2 * (s.shiftOperand x y).toNat % 256) rfl
        (flagByte_highBitOut_toNat _) (byte_shiftLeft_one_toNat _)⟩

/-! ### RandomAnd -/

/-- Settles O45: the register write of a masked byte, then the draw is counted, which no register sees. -/
theorem randomAndMasksAFreshByte : Obligations.RandomAndMasksAFreshByte := by
  intro x kk s
  have hx : (s.setReg x (Config.rnd s.draws &&& kk)).countDraw.reg x = Config.rnd s.draws &&& kk := by
    rw [State.countDraw_reg, State.reg_setReg_same]
  refine ⟨(s.setReg x (Config.rnd s.draws &&& kk)).countDraw, rfl, rfl, fun b => ?_, fun hkk => ?_,
    fun r hr => ?_⟩
  · rw [hx, BitVec.getLsbD_and]
  · rw [hx, hkk, BitVec.and_zero]
  · rw [State.countDraw_reg, State.reg_setReg_ne s hr]

end Sys2Proof.Machine
end

section
/-! PROOFS of the statements of 42_display: what ClearScreen and Draw leave in every cell, when Draw reports a
collision, and that nothing else changes. -/

namespace Sys2Proof.Machine

/-- Settles O46: the state of `setFrame` with the blank frame buffer. -/
theorem clearScreenTurnsEveryCellOff : Obligations.ClearScreenTurnsEveryCellOff :=
  fun _ => ⟨_, rfl, rfl, blankFrame_pixel⟩

/-! ### Draw -/

/-- A Draw whose rows on the screen lie in memory sets the frame to the rasterizer's and then the flag to the
collision (42_display R141). -/
theorem exec_draw_of_le {x y n : Nibble} {s : State} {out : Frame × Bool}
    (hout : drawSprite (s.reg x).toNat (s.reg y).toNat n.toNat
      (fun k => s.byteAt (s.i.toNat + k)) s.fb = out)
    (h : ∀ k, k < n.toNat → (s.reg y).toNat + k < 32 → s.i.toNat + k ≤ lastAddress) :
    exec (.draw x y n) s = .next ((s.setFrame out.1).setFlag out.2) := by
  subst hout
  refine congrArg Host.Outcome.next ((s.checked_drawnRows _ _ _ _).trans (if_neg ?_))
  rintro ⟨hpos, hlt⟩
  have hlast := h (min n.toNat (32 - (s.reg y).toNat) - 1) (by omega) (by omega)
  omega

@[simp] theorem State.reg_setFlag_flagReg (s : State) (b : Bool) :
    (s.setFlag b).reg 0xF#4 = flagByte b := s.reg_setReg_same _ _

/-- Settles O47: the cells and the collision are the rasterizer's. -/
theorem drawXorsTheSpriteAndReportsCollision : Obligations.DrawXorsTheSpriteAndReportsCollision := by
  intro x y n s hin
  refine ⟨_, exec_draw_of_le rfl hin, rfl, drawSprite_pixel _ _ _ _ _, ?_, ?_, fun r hr => ?_⟩
  · rw [State.reg_setFlag_flagReg]
    exact ite_eq_or_eq _ _ _
  · rw [State.reg_setFlag_flagReg, flagByte_eq_one]
    exact drawSprite_collision _ _ _ _ _
  · rw [State.reg_setFlag, if_neg hr, State.setFrame_reg]

/-- Settles O48: the first Draw leaves `v[x]`, `v[y]`, `i` and memory, so the second draws the same sprite, and an
exclusive or with the same pixel cancels. -/
theorem drawingTwiceRestoresTheFrameBuffer : Obligations.DrawingTwiceRestoresTheFrameBuffer := by
  intro x y n s t hin hst hkept
  obtain ⟨t', hexec, hframe, hpixel, -, -, hregs⟩ :=
    drawXorsTheSpriteAndReportsCollision x y n s hin
  obtain rfl : t' = t := Host.Outcome.next.inj (hexec.symm.trans hst)
  have hreg (z : Nibble) (hz : z ≠ 0xF#4 ∨ t'.reg 0xF#4 = s.reg 0xF#4) : t'.reg z = s.reg z := by
    by_cases hzF : z = 0xF#4
    · subst hzF; exact hz.resolve_left (absurd rfl)
    · exact hregs z hzF
  have hx : t'.reg x = s.reg x := hreg x (hkept.imp_left And.left)
  have hy : t'.reg y = s.reg y := hreg y (hkept.imp_left And.right)
  have hi : t'.i = s.i := by rw [hframe]
  have hbytes : t'.byteAt = s.byteAt := by rw [hframe]; rfl
  obtain ⟨u, hexec', -, hpixel', -, hflag', -⟩ :=
    drawXorsTheSpriteAndReportsCollision x y n t' (by rw [hy, hi]; exact hin)
  rw [hx, hy, hi, hbytes] at hpixel' hflag'
  refine ⟨u, hexec', Frame.ext_pixel fun r c => ?_, hflag'.trans ?_⟩
  · rw [hpixel', hpixel, Bool.xor_assoc, Bool.xor_self, Bool.xor_false]
  · refine exists_congr fun r => exists_congr fun c => and_congr_left fun hbit => ?_
    rw [hpixel, hbit, Bool.xor_true, Bool.not_eq_true']

/-- A sprite past the bottom edge, of height 0 or past the right edge has no pixel on the screen
(42_display R142, R143). -/
theorem spriteAt_of_offScreen {x0 y0 n : Nat} (h : 32 ≤ y0 ∨ n = 0 ∨ 64 ≤ x0) (byteOf : Nat → Byte)
    (r : Fin 32) (c : Fin 64) : spriteAt x0 y0 n byteOf r c = false := by
  have hoff : ¬(y0 ≤ r.val ∧ r.val < y0 + n ∧ x0 ≤ c.val ∧ c.val < x0 + 8) := by omega
  rw [spriteAt, decide_eq_false hoff, Bool.false_and]

/-- Settles O49: no row of such a sprite is read outside memory, and none of its pixels lies on the screen. -/
theorem drawOffTheScreenChangesNoPixel : Obligations.DrawOffTheScreenChangesNoPixel := by
  intro x y n s h
  have hin : ∀ k, k < n.toNat → (s.reg y).toNat + k < 32 → s.i.toNat + k ≤ 0xFFF := by
    intro k hk hrow
    rcases h with hbottom | hheight | ⟨-, hmem⟩
    · omega
    · omega
    · exact hmem k hk hrow
  have hblank := spriteAt_of_offScreen (h.imp_right (Or.imp_right And.left))
  obtain ⟨t, hexec, hframe, hpixel, hbit, hflag, hregs⟩ :=
    drawXorsTheSpriteAndReportsCollision x y n s hin
  have hfb : t.fb = s.fb := Frame.ext_pixel fun r c => by rw [hpixel, hblank, Bool.xor_false]
  refine ⟨t, hexec, hframe.trans (by rw [hfb]), hbit.resolve_left fun hone => ?_, hregs⟩
  obtain ⟨r, c, -, hlit⟩ := hflag.1 hone
  exact absurd hlit (Bool.eq_false_iff.1 (hblank _ r c))

end Sys2Proof.Machine
end

section
/-! PROOFS of the statements of 43_keyboard: which key the key skips test, which key GetKey takes, and that
nothing else changes. -/

namespace Sys2Proof.Machine

/-! ### GetKey -/

theorem State.lowestKeyDown_of_keys_eq_zero {s : State} (hs : s.keys = 0x0000#16) :
    s.lowestKeyDown = none := by
  obtain ⟨-, hnone⟩ | ⟨k, -, hdown, -⟩ := s.lowestKeyDown_cases
  · exact hnone
  · rw [hs, BitVec.getLsbD_zero] at hdown
    contradiction

/-- A key that is down with every lower key up is the one the scan answers (43_keyboard R152). -/
theorem State.lowestKeyDown_of_least {s : State} {k : Nat} (hdown : s.keys.getLsbD k = true)
    (hleast : ∀ j < k, s.keys.getLsbD j = false) : s.lowestKeyDown = some k := by
  obtain ⟨hzero, -⟩ | ⟨m, -, hdown', hleast', hsome⟩ := s.lowestKeyDown_cases
  · rw [hzero, BitVec.getLsbD_zero] at hdown
    contradiction
  · have hkm : k ≤ m := Nat.le_of_not_lt fun h => Bool.eq_false_iff.1 (hleast m h) hdown'
    have hmk : m ≤ k := Nat.le_of_not_lt fun h => Bool.eq_false_iff.1 (hleast' k h) hdown
    rw [hsome, Nat.le_antisymm hmk hkm]

/-- Settles O51: the scan answers no key for an empty latch, and otherwise the least key down, whose number fits
in a byte. -/
theorem getKeyPollsForTheLowestKeyDown : Obligations.GetKeyPollsForTheLowestKeyDown := by
  intro x s
  constructor
  · intro hup
    exact exec_getKey_of_none x (State.lowestKeyDown_of_keys_eq_zero hup)
  · intro k hk hdown hleast
    have hbyte : (BitVec.ofNat 8 k).toNat = k := by rw [BitVec.toNat_ofNat]; omega
    exact exec_of_setReg (·.toNat = k)
      (exec_getKey_of_some x (State.lowestKeyDown_of_least hdown hleast)) hbyte

/-! ### The key skips -/

theorem State.keyDown_iff (s : State) (b : Byte) :
    s.keyDown b = true ↔ b.toNat ≤ 0xF ∧ s.keys.getLsbD b.toNat = true := by
  rw [State.keyDown, Bool.and_eq_true, decide_eq_true_iff]

/-- A skip whose test `c` decides `p` adds 2 to `pc` exactly when `p` holds, and changes nothing else. -/
theorem exec_skip_of_test {i : Instr} {s : State} {c : Bool} {p : Prop}
    (hexec : exec i s = .next (s.skipIf c)) (hc : c = true ↔ p) :
    ∃ t, exec i s = .next t ∧ t = { s with pc := t.pc }
      ∧ (p → t.pc = s.pc + 2#16) ∧ (¬p → t.pc = s.pc) := by
  rw [State.skipIf_eq] at hexec
  exact ⟨_, hexec, rfl, fun hp => if_pos (hc.2 hp), fun hp => if_neg (mt hc.1 hp)⟩

/-- Settles O50: the two skips test the same key, one for down and the other for up. -/
theorem keySkipsTestTheNamedKey : Obligations.KeySkipsTestTheNamedKey := by
  intro x s pressed hpressed
  have hdown : s.keyDown (s.reg x) = true ↔ pressed := (s.keyDown_iff (s.reg x)).trans hpressed.symm
  have hup : (!s.keyDown (s.reg x)) = true ↔ ¬pressed := by
    rw [Bool.not_eq_true', ← hdown, Bool.not_eq_true]
  obtain ⟨t, hexec, hframe, hskip, hstay⟩ := exec_skip_of_test (i := .skipIfKeyNotPressed x) rfl hup
  exact ⟨exec_skip_of_test rfl hdown, t, hexec, hframe, hskip, fun hp => hstay (not_not_intro hp)⟩

end Sys2Proof.Machine
end

section
/-! PROOFS about the timer instructions (44_timer_ops R160 to R162): the counter goes to the register, or the
register to the counter, and nothing else changes. -/

namespace Sys2Proof.Machine

/-- The sound output in terms of the counter's number (00_scope R11). -/
theorem State.soundActive_iff (s : State) : s.soundActive = true ↔ s.soundTimer.toNat ≠ 0 :=
  bne_iff_ne.trans BitVec.toNat_ne

/-- Settles O52: each instruction is one write, of a register or of a counter; `sound_active` is read off the
counter just written. -/
theorem timerInstructionsMoveTheCounters : Obligations.TimerInstructionsMoveTheCounters := by
  intro x s
  refine ⟨?get, ?setDelay, ?setSound⟩
  case get => exact exec_of_setReg (· = s.delayTimer) rfl rfl
  case setDelay => exact ⟨_, rfl, rfl⟩
  case setSound => exact ⟨_, rfl, rfl, (s.setSoundTimer (s.reg x)).soundActive_iff⟩

end Sys2Proof.Machine
end

section
/-! PROOFS of the statements of 45_index_memory: the address that each index form leaves in `i`, the bytes and
registers that the three memory forms transfer when they lie in memory, and that nothing else changes. -/

namespace Sys2Proof.Machine

/-! ### The index forms -/

/-- Settles O53: the state of `setIndex` with the zero-extended operand. -/
theorem setIndexLoadsTheAddress : Obligations.SetIndexLoadsTheAddress :=
  fun nnn _ => ⟨_, rfl, rfl, addrOperand_toNat nnn⟩

/-- Settles O55: the state of `setIndex` with the glyph's address, which fits in 16 bits for every byte. -/
theorem fontCharacterAddressIsFiveBytesADigit : Obligations.FontCharacterAddressIsFiveBytesADigit :=
  fun x s => ⟨_, rfl, rfl, glyphAddress_toNat (s.reg x)⟩

theorem indexOverflow_iff (sum : Nat) : indexOverflow sum = true ↔ 0xFFF < sum := decide_eq_true_iff

/-- Settles O54: legacy sets `i` only; updated sets `i` and, past `0xFFF`, the flag, which no register but `vF`
sees. -/
theorem addToIndexWrapsAsTheQuirkSays : Obligations.AddToIndexWrapsAsTheQuirkSays := by
  intro x s sum hsum
  obtain rfl : sum = s.indexSum x := hsum
  cases hq : s.cfg.isNewChip8 with
  | false =>
    exact ⟨_, exec_addToIndex_of_legacy x hq, rfl, fun _ _ => rfl, nofun,
      fun _ => ⟨BitVec.toNat_ofNat _ 16, rfl⟩⟩
  | true =>
    have hi : (BitVec.ofNat 16 (s.indexSum x % 0x1000)).toNat = s.indexSum x % 0x1000 := by
      rw [BitVec.toNat_ofNat]; omega
    have hexec := exec_addToIndex_of_updated x hq
    by_cases hover : 0xFFF < s.indexSum x
    · rw [if_pos ((indexOverflow_iff _).2 hover)] at hexec
      refine ⟨_, hexec, rfl, fun r hr => ?_, fun _ => ⟨hi, ?_⟩, nofun⟩
      · rw [State.reg_setFlag, if_neg hr, State.setIndex_reg]
      · rw [if_pos hover]; exact State.reg_setFlag_flagReg _ true
    · rw [if_neg (mt (indexOverflow_iff _).1 hover)] at hexec
      exact ⟨_, hexec, rfl, fun _ _ => rfl, fun _ => ⟨hi, (if_neg hover).symm⟩, nofun⟩

/-! ### An access inside memory, and DoBCDConversion -/

/-- An access to the `n` bytes from `i` on is made when they lie in memory (20_memory R52). -/
theorem State.checked_indexRun_of_le {s : State} {n : Nat} (hn : 0 < n)
    (h : s.i.toNat + n ≤ lastAddress + 1) (ins : Instr) (done : State) :
    s.checked ins (s.indexRun n) done = done :=
  (s.checked_indexRun ins hn done).trans (if_pos h)

/-- DoBCDConversion with its bytes in memory (45_index_memory R173). -/
theorem exec_doBCDConversion_of_le (x : Nibble) {s : State} (h : s.i.toNat + 2 ≤ lastAddress) :
    exec (.doBCDConversion x) s
      = .next (s.setMem (s.mem.writeBytes s.i.toNat (bcdDigits (s.reg x)))) :=
  congrArg Host.Outcome.next (State.checked_indexRun_of_le (by decide) (Nat.succ_le_succ h) _ _)

/-- The bytes are the three decimal digits of the value, most significant first (45_index_memory R173). -/
theorem bcdDigits_spec (d : Byte) :
    ∃ hundreds tens units : Byte, bcdDigits d = [hundreds, tens, units]
      ∧ 100 * hundreds.toNat + 10 * tens.toNat + units.toNat = d.toNat
      ∧ tens.toNat ≤ 9 ∧ units.toNat ≤ 9 := by
  have hd := d.isLt
  refine ⟨_, _, _, rfl, ?_⟩
  simp only [BitVec.toNat_ofNat]
  omega

/-- Settles O56: the three digits are read back at their places, and no other byte is written. -/
theorem bcdStoresThreeDecimalDigits : Obligations.BcdStoresThreeDecimalDigits := by
  intro x s hin
  obtain ⟨hundreds, tens, units, hdigits, hsum, htens, hunits⟩ := bcdDigits_spec (s.reg x)
  have hexec := exec_doBCDConversion_of_le x hin
  rw [hdigits] at hexec
  generalize ht : s.setMem (s.mem.writeBytes s.i.toNat [hundreds, tens, units]) = t at hexec
  have hread {k : Nat} (hk : k < 3) : t.byteAt (s.i.toNat + k) = [hundreds, tens, units][k] := by
    rw [← ht]; exact Memory.read_writeBytes_inside hk (Nat.succ_le_succ hin)
  have h0 : t.byteAt s.i.toNat = hundreds := hread (k := 0) (by decide)
  have h1 : t.byteAt (s.i.toNat + 1) = tens := hread (by decide)
  have h2 : t.byteAt (s.i.toNat + 2) = units := hread (by decide)
  refine ⟨t, hexec, ht ▸ rfl, ?_⟩
  rw [h0, h1, h2]
  refine ⟨hsum, htens, hunits, fun a ha => ?_⟩
  rw [← ht]; exact Memory.read_writeBytes_outside (ha.imp_right Nat.succ_le_of_lt)

/-! ### The block transfers -/

@[simp] theorem State.bumpIndex_reg (s : State) (x r : Nibble) : (s.bumpIndex x).reg r = s.reg r := by
  rw [State.bumpIndex_eq, State.setIndex_reg]

/-- With the transferred bytes in memory the post-modification does not wrap (45_index_memory R176). -/
theorem State.bumpIndex_i_toNat {s : State} {x : Nibble} (h : s.i.toNat + x.toNat ≤ lastAddress) :
    (s.bumpIndex x).i.toNat = s.i.toNat + if s.cfg.isNewChip8 = true then 0 else x.toNat + 1 := by
  have hx := x.isLt
  unfold lastAddress at h
  rw [State.bumpIndex_eq, State.setIndex_i]
  split
  · rfl
  · rw [BitVec.toNat_add, BitVec.toNat_add, BitVec.toNat_setWidth, BitVec.toNat_ofNat]
    omega

/-- Settles O57: the registers are read back at their places, no other byte is written, and the memory write
leaves `i` and the configuration for the post-modification. -/
theorem storeCopiesRegistersToMemory : Obligations.StoreCopiesRegistersToMemory := by
  intro x s hin
  have hexec := exec_storeRegistersToMemory_of_le x hin
  refine ⟨_, hexec, ?frame, fun r hr => ?stored, fun a ha => ?outside, State.bumpIndex_i_toNat hin⟩
  case frame => rw [State.bumpIndex_eq]; rfl
  case stored =>
    rw [exec_storeRegistersToMemory_byteAt hexec hin hr, BitVec.ofNat_toNat, BitVec.setWidth_eq]
  case outside =>
    rw [State.byteAt_bumpIndex]
    exact Memory.read_writeBytes_outside (by rw [State.regsUpTo_length]; omega)

/-- LoadRegistersFromMemory with its bytes in memory (45_index_memory R175). -/
theorem exec_loadRegistersFromMemory_of_le (x : Nibble) {s : State}
    (h : s.i.toNat + x.toNat ≤ lastAddress) :
    exec (.loadRegistersFromMemory x) s
      = .next ((s.loadRegs (List.range (x.toNat + 1))).bumpIndex x) :=
  congrArg Host.Outcome.next
    (State.checked_indexRun_of_le x.toNat.succ_pos (Nat.succ_le_succ h) _ _)

@[simp] theorem State.loadRegs_i (s : State) (ks : List Nat) : (s.loadRegs ks).i = s.i := by
  rw [State.loadRegs_eq]

@[simp] theorem State.loadRegs_cfg (s : State) (ks : List Nat) : (s.loadRegs ks).cfg = s.cfg := by
  rw [State.loadRegs_eq]

/-- After loading `v[0]` to `v[x]`, a register up to `x` holds its byte of memory and one above `x` its old
value (45_index_memory R175). -/
theorem State.reg_loadRegs_range (s : State) (x r : Nibble) :
    (s.loadRegs (List.range (x.toNat + 1))).reg r
      = if r.toNat ≤ x.toNat then s.byteAt (s.i.toNat + r.toNat) else s.reg r := by
  have hx := x.isLt
  have hlt : ∀ k ∈ List.range (x.toNat + 1), k < 16 := fun k hk => by
    have := List.mem_range.1 hk; omega
  rw [State.reg_loadRegs _ hlt]
  simp only [List.mem_range, Nat.lt_succ_iff]

/-- Settles O58: the registers up to `x` are loaded and the others kept, and the loads leave memory, `i` and the
configuration for the post-modification. -/
theorem loadCopiesMemoryToRegisters : Obligations.LoadCopiesMemoryToRegisters := by
  intro x s hin
  refine ⟨_, exec_loadRegistersFromMemory_of_le x hin, ?frame, fun r hr => ?loaded, fun r hr => ?kept,
    ?index⟩
  case frame => rw [State.bumpIndex_eq, State.loadRegs_eq]; rfl
  case loaded => rw [State.bumpIndex_reg, State.reg_loadRegs_range, if_pos hr]
  case kept => rw [State.bumpIndex_reg, State.reg_loadRegs_range, if_neg (Nat.not_le_of_lt hr)]
  case index =>
    rw [State.bumpIndex_i_toNat (by rwa [State.loadRegs_i]), State.loadRegs_i, State.loadRegs_cfg]

end Sys2Proof.Machine
end

section
/-! PROOF of the statement of 46_unsupported: the fault's record, or the state itself. -/

namespace Sys2Proof.Machine

/-- Settles O59: the fault's address `pc - 2` is the fetch address, and the word of Unsupported is its own
encoding. -/
theorem unsupportedHaltsOrDoesNothing : Obligations.UnsupportedHaltsOrDoesNothing := by
  intro w a s hpc
  have hfetched : s.pc - 2#16 = a := by rw [hpc, BitVec.add_sub_cancel]
  have hword : encode (.unsupported w) = w := rfl
  constructor
  · intro hhalt
    rw [exec_unsupported_of_halt w hhalt, State.raiseIn_eq, hfetched, hword]
  · exact exec_unsupported_of_ignore w

end Sys2Proof.Machine
end

section
/-! PROOFS of the statements of 60_exceptions and 70_reset_and_hazards: which instruction faults and that the fault
is precise, the order of the checks of a cycle, the step of the machine, and the countdown of the timers. -/

namespace Sys2Proof.Machine

/-! ### The faults of the execute phase -/

/-- An access to the `n` bytes from `i` on faults when they do not all lie in memory (20_memory R54). -/
theorem State.checked_indexRun_of_gt {s : State} {n : Nat}
    (h : 0 < n ∧ 0x1000 < s.i.toNat + n) (ins : Instr) (done : State) :
    s.checked ins (s.indexRun n) done
      = s.raiseIn ins .memoryOutOfBounds (some (BitVec.ofNat 16 (max s.i.toNat 0x1000))) :=
  (s.checked_indexRun ins h.1 done).trans (if_neg (Nat.not_le.2 h.2))

/-- An instruction raises the fault that is due (60_exceptions R201 to R205). -/
theorem exec_of_faultWhen {i : Instr} {s : State} {c : FaultCause} {info : Option Word}
    (h : faultWhen s i = some (c, info)) : exec i s = .next (s.raiseIn i c info) := by
  cases i with
  | jumpAndLink nnn =>
    obtain ⟨hfull, hc⟩ := Option.ite_none_right_eq_some.1 h
    cases hc
    exact exec_jumpAndLink_of_full nnn hfull
  | returnFromProcedure =>
    obtain ⟨hempty, hc⟩ := Option.ite_none_right_eq_some.1 h
    cases hc
    exact exec_returnFromProcedure_of_nil (List.length_eq_zero_iff.1 hempty)
  | draw x y n =>
    obtain ⟨hrun, hc⟩ := Option.ite_none_right_eq_some.1 h
    cases hc
    exact congrArg Host.Outcome.next ((s.checked_drawnRows _ _ _ _).trans (if_pos hrun))
  | doBCDConversion | storeRegistersToMemory | loadRegistersFromMemory =>
    obtain ⟨hrun, hc⟩ := Option.ite_none_right_eq_some.1 h
    cases hc
    exact congrArg Host.Outcome.next (State.checked_indexRun_of_gt hrun _ _)
  | unsupported w =>
    obtain ⟨hhalt, hc⟩ := Option.ite_none_right_eq_some.1 h
    cases hc
    exact exec_unsupported_of_halt w hhalt
  | _ => cases h

/-- An instruction of which no fault is due keeps the status (60_exceptions R210). -/
theorem State.Effect.status_of_noFault {i : Instr} {s t : State} (h : s.Effect i t)
    (hnone : faultWhen s i = none) : t.status = s.status := by
  cases h with
  | fault hdue => cases hnone.symm.trans hdue
  | _ => rfl

/-- Settles O24: a fault that is due is raised and writes `pc` and the status, and every other effect keeps the
status. -/
theorem faultsAreTheListedOnesAndPrecise : Obligations.FaultsAreTheListedOnesAndPrecise := by
  intro i s t hrun h
  split
  · next hnone => exact ((exec_effect h).status_of_noFault hnone).trans hrun
  · next cause info hdue =>
    cases (exec_of_faultWhen hdue).symm.trans h
    exact s.raiseIn_eq i cause info

/-! ### The checks before execute, and the step -/

/-- Settles O9: in each case of a cycle the lines and `pc` exclude the clauses of the other cases. -/
theorem cycleChecksStopThenQueueThenFetch : Obligations.CycleChecksStopThenQueueThenFetch := by
  intro s hrun
  obtain ⟨hended, -⟩ | ⟨-, hstop, hc⟩ | ⟨-, hstop, hqueue, hc⟩ | ⟨-, hstop, hqueue, -, hc⟩ |
    ⟨-, hstop, hqueue, hpc, -⟩ := cycle_cases s
  · exact absurd hrun hended
  · exact ⟨fun _ => hc, fun h => (nomatch hstop.symm.trans h), fun h => (nomatch hstop.symm.trans h)⟩
  · exact ⟨fun h => (nomatch hstop.symm.trans h), fun _ _ => hc,
      fun _ h => (nomatch hqueue.symm.trans h)⟩
  · exact ⟨fun h => (nomatch hstop.symm.trans h), fun _ h => (nomatch hqueue.symm.trans h),
      fun _ _ _ => hc⟩
  · exact ⟨fun h => (nomatch hstop.symm.trans h), fun _ h => (nomatch hqueue.symm.trans h),
      fun _ _ h => absurd hpc (Nat.not_lt.2 h)⟩

/-- A cycle that passes the three checks executes the word at `pc` (70_reset_and_hazards R250). -/
theorem cycle_of_fetched {s : State} (hrun : s.status = .running) (hstop : s.stop = false)
    (hqueue : s.queueDisconnected = false) (hpc : s.pc.toNat < lastAddress) :
    cycle s = exec (decode (wordOfBytes (s.byteAt s.pc.toNat) (s.byteAt (s.pc.toNat + 1))))
      s.drain.advancePc := by
  obtain ⟨hended, -⟩ | ⟨-, hs, -⟩ | ⟨-, -, hq, -⟩ | ⟨-, -, -, hout, -⟩ | ⟨-, -, -, -, hexec⟩ :=
    cycle_cases s
  · exact absurd hrun hended
  · cases hstop.symm.trans hs
  · cases hqueue.symm.trans hq
  · exact absurd hpc (Nat.not_lt.2 hout)
  · exact hexec

theorem step_of_nil {s : State} (h : s.schedule = []) : step s = cycle s := by
  rw [step, h]

theorem step_of_cons {s : State} {m : Move} {rest : List Move} (h : s.schedule = m :: rest) :
    step s = perform m (s.setSchedule rest) := by
  rw [step, h]

/-- Settles O7, by the two cases of the schedule. -/
theorem stepTakesTheNextScheduledMove : Obligations.StepTakesTheNextScheduledMove :=
  fun _ => ⟨step_of_nil, fun _ _ => step_of_cons⟩

/-- The compute agent moves when a cycle is scheduled, or when nothing is (log entry 3). -/
theorem step_of_cycle_next {s : State} {rest : List Move}
    (h : s.schedule = [] ∧ rest = [] ∨ s.schedule = .cycle :: rest) :
    step s = cycle (s.setSchedule rest) := by
  obtain ⟨hnil, rfl⟩ | hcycle := h
  · have hs : s.setSchedule [] = s := by rw [← hnil]; rfl
    rw [step_of_nil hnil, hs]
  · exact step_of_cons hcycle

/-- Settles O8: the step is a cycle, and the cycle passes its checks. -/
theorem stepRunsTheDecodedInstruction : Obligations.StepRunsTheDecodedInstruction := by
  intro s i rest hsched hrun hstop hqueue hpc hi
  subst hi
  exact (step_of_cycle_next hsched).trans
    (cycle_of_fetched (s := s.setSchedule rest) hrun hstop hqueue (Nat.lt_succ_of_le hpc))

/-! ### The timer agent -/

theorem State.tick_of_timerRunning {s : State} (hs : s.timerRunning = true) :
    s.tick
      = { s with delayTimer := countDown s.delayTimer, soundTimer := countDown s.soundTimer } :=
  if_pos hs

theorem countDown_toNat_eq_ite (b : Byte) :
    (countDown b).toNat = if 0 < b.toNat then b.toNat - 1 else 0 := by
  rw [countDown_toNat]
  split <;> omega

/-- Settles O12: a running tick counts both counters down. -/
theorem tickLowersBothCountersAndNothingElse :
    Obligations.TickLowersBothCountersAndNothingElse := by
  intro s hs
  refine ⟨rfl, ?_⟩
  rw [State.tick_of_timerRunning hs]
  exact ⟨rfl, countDown_toNat_eq_ite _, countDown_toNat_eq_ite _⟩

theorem iterate_countDown_toNat (n : Nat) (b : Byte) :
    (countDown^[n] b).toNat = b.toNat - n := by
  induction n with
  | zero => rfl
  | succ n ih => rw [Function.iterate_succ_apply', countDown_toNat, ih, Nat.sub_sub]

/-- Ticks count both counters down and touch nothing else, in particular not the bit that lets them. -/
theorem State.iterate_tick {s : State} (hs : s.timerRunning = true) (n : Nat) :
    State.tick^[n] s
      = { s with
          delayTimer := countDown^[n] s.delayTimer
          soundTimer := countDown^[n] s.soundTimer } := by
  induction n with
  | zero => rfl
  | succ n ih =>
    simp only [Function.iterate_succ_apply', ih]
    exact State.tick_of_timerRunning hs

/-- Settles O13: each counter is its old value counted down `n` times. -/
theorem countdownHoldsMaxOfDifferenceAndZero :
    Obligations.CountdownHoldsMaxOfDifferenceAndZero := by
  rintro n s _ hs rfl
  rw [State.soundActive_iff, State.iterate_tick hs n]
  have hdelay := iterate_countDown_toNat n s.delayTimer
  have hsound := iterate_countDown_toNat n s.soundTimer
  refine ⟨rfl, ?_, ?_, ?_⟩ <;> dsimp only <;> omega

end Sys2Proof.Machine
end
